-- ==== Sys2Proof/Word.lean ====
section
/-! DEFINITION. The words of sponge_engine that the spec treats as bits: the command header (R62) and
the response word (R70). A field element is "an unsigned integer in `[0, P-1]`" (R4) and a payload
word on DIN is a plain unsigned integer until its position says what it is (R67): both are natural
numbers, `Nat`, in this model. -/

namespace Sys2Proof

/-- The 32-bit command header of R62. -/
abbrev Header := BitVec 32

/-- The 32-bit response word of R70. -/
abbrev RspWord := BitVec 32

end Sys2Proof
end

