-- ==== Sys2Proof/Config.lean ====
section
/-! DEFINITION. What an implementation of sponge_engine fixes: the structural parameters (R3), the
size parameters (R5), the field modulus (R4) and the permutation (R9). The open ones are constants
without a body: no proof can see their values. -/

namespace Sys2Proof

/-- CAPACITY, the number of capacity lanes: the reference value (R3, D4). -/
abbrev CAPACITY : Nat := 1

/-- RATE, the number of rate lanes: the reference value (R3, D4). -/
abbrev RATE : Nat := 3

/-- WIDTH = RATE + CAPACITY, the number of lanes (R3). -/
abbrev WIDTH : Nat := RATE + CAPACITY

/-- LEN_BITS, the width of a pattern entry and of every length field (R5, D5). -/
abbrev LEN_BITS : Nat := 16

/-- The lanes `state[0]` to `state[WIDTH-1]` of the state register, capacity first (R11, R12). -/
abbrev Lanes := Vector Nat WIDTH

/-- The arguments a model of this hardware takes (R3 to R5, R9, R25): the field modulus `P`, the
external permutation, and the sizes of the two stores, with the defaults of R5. The machine of this
package is the one at `Config.hw`; the toy fixture of spec/95_test_vectors.md is another. -/
structure Params where
  /-- `P`, FIELD_MODULUS (R4): OPEN, no default. -/
  modulus : Nat
  /-- `permute : Field^WIDTH -> Field^WIDTH` (R9, R125): uninterpreted. -/
  permute : Lanes → Lanes
  /-- PATTERN_MAX (R5, D6). -/
  patternMax : Nat := 16
  /-- OUT_MAX (R5, D7). -/
  outMax : Nat := 64

/-- Every lane is a canonical representative (R4). -/
def Params.CanonicalLanes (p : Params) (l : Lanes) : Prop :=
  ∀ i : Fin WIDTH, l[i] < p.modulus

/-- The range the spec gives each parameter: `P` a prime (R4, D2), the sizes in `[1, 65535]` (R5),
and `permute` answering field elements (R9, R131 clause (d)). -/
structure Params.Valid (p : Params) : Prop where
  prime : p.modulus.Prime
  patternMax_pos : 1 ≤ p.patternMax
  patternMax_le : p.patternMax ≤ 65535
  outMax_pos : 1 ≤ p.outMax
  outMax_le : p.outMax ≤ 65535
  permute_canonical : ∀ l, p.CanonicalLanes l → p.CanonicalLanes (p.permute l)

namespace Config

/-- The field modulus (R4, D2, U11): some prime. Entry 3. -/
opaque fieldModulus : Nat.Primes

/-- The permutation unit's function before its answer is taken into the field (R9, U12). Entry 4. -/
opaque permuteValue : Lanes → Lanes

/-- PATTERN_MAX - 1 (R5, D6): some number below 65535. Entry 5. -/
opaque patternMaxPred : Fin 65535

/-- OUT_MAX - 1 (R5, D7): some number below 65535. Entry 5. -/
opaque outMaxPred : Fin 65535

/-- The parameters of this hardware: every value the spec allows, none chosen. Reducing the free
function's lanes modulo `P` leaves every function from field elements to field elements possible
and no other (R9, R131 clause (d); entry 4). -/
def hw : Params where
  modulus := fieldModulus.val
  permute := fun l => (permuteValue l).map (· % fieldModulus.val)
  patternMax := patternMaxPred.val + 1
  outMax := outMaxPred.val + 1

end Config

end Sys2Proof
end

