-- ==== Sys2Proof/Syntax.lean ====
section
/-! DEFINITION. The command set of sponge_engine (R63): one constructor of `Instr` per row of
spec/opcode_table.json, with the operands of R90, R100, R110 and R120. -/

namespace Sys2Proof

/-- The four opcodes (R63). All four values of the 2-bit field are used. -/
inductive Op where
  | start
  | absorb
  | squeeze
  | finish
  deriving DecidableEq, Repr

/-- A command with its operands (R76): the pattern and the tag of START, the message elements of
ABSORB. The header's `len` is the length of the list (R64); SQUEEZE and FINISH have no operand. -/
inductive Instr where
  /-- `START [n0, ...], tag` (R90). -/
  | start (pattern : List Nat) (tag : Nat)
  /-- `ABSORB [x0, ...]` (R100). -/
  | absorb (input : List Nat)
  /-- `SQUEEZE` (R110). -/
  | squeeze
  /-- `FINISH` (R120). -/
  | finish
  deriving DecidableEq, Repr

/-- The opcode of a command. -/
def Instr.op : Instr → Op
  | .start _ _ => .start
  | .absorb _ => .absorb
  | .squeeze => .squeeze
  | .finish => .finish

end Sys2Proof
end

