-- ==== Sys2Proof/WellFormed.lean ====
section
/-! DEFINITION. Which terms of `Instr` are commands the header can carry: `len` is a 16-bit field
(R62, R64), so a pattern and a message have at most 65535 elements. Whether the words of a command
meet the interface contract of R67 is not a matter of form: `Sys2Proof.Machine.inContract`. -/

namespace Sys2Proof

/-- The number of elements `len` announces fits the 16-bit field (R62, R64). -/
def lenFits (n : Nat) : Bool := decide (n < 2 ^ LEN_BITS)

/-- The command has an encoding (R62, R64, R68, R69). -/
def Instr.wellFormed : Instr → Bool
  | .start pattern _ => lenFits pattern.length
  | .absorb input => lenFits input.length
  | .squeeze => true
  | .finish => true

end Sys2Proof
end

