-- ==== Sys2Proof/Decode.lean ====
section
/-! DEFINITION. The decoder and the encoder of commands (R62 to R69, R74, R75). A command is one
32-bit header and the payload words its header announces. The decoder is total on every header and
every list of payload words, and names what it rejects. -/

namespace Sys2Proof

/-- The 2-bit opcode value (R63). -/
def Op.code : Op → BitVec 2
  | .start => 0b00#2
  | .absorb => 0b01#2
  | .squeeze => 0b10#2
  | .finish => 0b11#2

/-- The opcode a 2-bit value stands for: there is no unassigned value (R63). -/
def Op.ofCode (c : BitVec 2) : Op :=
  if c = 0b00#2 then .start else if c = 0b01#2 then .absorb else if c = 0b10#2 then .squeeze else .finish

/-- `h[1:0]`, field `op` (R62). -/
def hdrOp (h : Header) : Op := Op.ofCode (h.extractLsb' 0 2)

/-- `h[7:2]`, field `rsv0` (R62). -/
def hdrRsv0 (h : Header) : BitVec 6 := h.extractLsb' 2 6

/-- `h[23:8]`, field `len` (R62, R64). -/
def hdrLen (h : Header) : BitVec LEN_BITS := h.extractLsb' 8 16

/-- `h[31:24]`, field `rsv1` (R62). -/
def hdrRsv1 (h : Header) : BitVec 8 := h.extractLsb' 24 8

/-- Header validity, R65: the reserved fields are 0, and `len` is 0 unless the command is START or
ABSORB. -/
def hdrWellFormed (h : Header) : Bool :=
  hdrRsv0 h == 0 && hdrRsv1 h == 0
    && (hdrOp h == .start || hdrOp h == .absorb || hdrLen h == 0)

/-- `paylen(h)`, the number of words the block consumes from DIN for any header (R66). -/
def paylen (h : Header) : Nat :=
  match hdrOp h with
  | .start => (hdrLen h).toNat + 1
  | .absorb => (hdrLen h).toNat
  | .squeeze => 0
  | .finish => 0

/-- One row of the opcode map of R74. -/
structure OpRow where
  op : Op
  mask : Header
  value : Header
  deriving DecidableEq, Repr

/-- The opcode map of R74, with the masks and values of spec/opcode_table.json. -/
def opcodeMap : List OpRow :=
  [ ⟨.start, 0xFF0000FF#32, 0x00000000#32⟩,
    ⟨.absorb, 0xFF0000FF#32, 0x00000001#32⟩,
    ⟨.squeeze, 0xFFFFFFFF#32, 0x00000002#32⟩,
    ⟨.finish, 0xFFFFFFFF#32, 0x00000003#32⟩ ]

/-- The header lies in the row: `h & mask == match` (R74). -/
def OpRow.covers (r : OpRow) (h : Header) : Bool := h &&& r.mask == r.value

/-- Why the decoder rejects. The first three are the malformed headers of R65; the last is the
decoder's own report of a payload that has not arrived in full (R66, R215; entry 22). -/
inductive DecodeError where
  /-- `rsv0` is not 0 (R62, R75). -/
  | reservedLow
  /-- `rsv1` is not 0 (R62, R75). -/
  | reservedHigh
  /-- `len` is not 0 on SQUEEZE or FINISH (R64, R75). -/
  | lenNotZero
  /-- Fewer payload words than `paylen(h)` (R66). -/
  | payloadShort
  deriving DecidableEq, Repr

/-- The name of what makes a header malformed (R65, R75). -/
def malformedName (h : Header) : DecodeError :=
  if hdrRsv0 h != 0 then .reservedLow else if hdrRsv1 h != 0 then .reservedHigh else .lenNotZero

/-- START's payload: `n` pattern words, entry 0 first, then the tag word (R68). -/
def decodeStart (n : Nat) (din : List Nat) : Except DecodeError (Instr × List Nat) :=
  match din.drop n with
  | tag :: rest => .ok (.start (din.take n) tag, rest)
  | [] => .error .payloadShort

/-- ABSORB's payload: `n` message words, element 0 first (R69). -/
def decodeAbsorb (n : Nat) (din : List Nat) : Except DecodeError (Instr × List Nat) :=
  if din.length < n then .error .payloadShort else .ok (.absorb (din.take n), din.drop n)

/-- Decoding: the row of the opcode map the header lies in decides the command (R74), its payload is
taken from the words on DIN, and the words after it are handed back. A header in no row is malformed
(R65). -/
def decode (h : Header) (din : List Nat) : Except DecodeError (Instr × List Nat) :=
  match opcodeMap.find? (·.covers h) with
  | none => .error (malformedName h)
  | some row =>
    match row.op with
    | .start => decodeStart (hdrLen h).toNat din
    | .absorb => decodeAbsorb (hdrLen h).toNat din
    | .squeeze => .ok (.squeeze, din)
    | .finish => .ok (.finish, din)

/-- The number of elements a command's header announces, field `len` (R64, R76). -/
def Instr.len : Instr → BitVec LEN_BITS
  | .start pattern _ => BitVec.ofNat 16 pattern.length
  | .absorb input => BitVec.ofNat 16 input.length
  | .squeeze => 0
  | .finish => 0

/-- The header with opcode `op` and count `len`, reserved fields 0 (R62). -/
def mkHeader (op : Op) (len : BitVec LEN_BITS) : Header := 0#8 ++ len ++ 0#6 ++ op.code

/-- A command's header word (R62, R64, R76). -/
def encodeHeader (i : Instr) : Header := mkHeader i.op i.len

/-- A command's payload words on DIN, the first first (R68, R69). -/
def encodePayload : Instr → List Nat
  | .start pattern tag => pattern ++ [tag]
  | .absorb input => input
  | .squeeze => []
  | .finish => []

/-- Encoding: the header and the payload words (R76). -/
def encode (i : Instr) : Header × List Nat := (encodeHeader i, encodePayload i)

/-- The command whose header has the bits `w`, every payload word 0 (the table gives payload words
no bits). `nbits` is 32 for every row. -/
def decodeTableWord (nbits w : Nat) : Option Instr :=
  let h := BitVec.ofNat 32 (w % 2 ^ nbits)
  match decode h (List.replicate (paylen h) 0) with
  | .ok (i, _) => some i
  | .error _ => none

end Sys2Proof
end

