-- ==== Sys2Proof/Machine/State.lean ====
section
/-! DEFINITION. The state of one sponge_engine as plain data: the architectural state (R10), the
controller's hidden registers (R24, R141), and the environment's side of the ports (R60, R221); the
reasons a step can stop; and the state after reset (R28, R201). -/

namespace Sys2Proof.Machine

/-- The outcome of a command and the contents of `fault`: the status codes of R71. The reserved codes
6 and 7 are never produced and are not in the type (U5). -/
inductive Status where
  /-- 0: OK; as a value of `fault`, NONE. -/
  | ok
  /-- 1 (R171). -/
  | patternMismatch
  /-- 2, the document's IndexOutOfBounds as well (R172). -/
  | patternExhausted
  /-- 3 (R173). -/
  | badPattern
  /-- 4 (R174). -/
  | capacity
  /-- 5 (R175). -/
  | badCommand
  deriving DecidableEq, Repr

/-- The twelve phases of the controller (R140). The values 12 to 15 are never reached and are not in
the type (U6). -/
inductive Phase where
  | idle
  | startClr
  | startPat
  | startTag
  | absElem
  | sqzElem
  | permReq
  | permWait
  | finClr
  | drain
  | resp
  | dout
  deriving DecidableEq, Repr

/-- A cursor into the rate region: range `[0, RATE]`, RATE being the sentinel (R19, R20). The four
values are exactly those of a register of POS_BITS = 2 bits (R5). -/
abbrev Cursor := Fin (RATE + 1)

/-- An element-indexed store (R40), sparse: pairs of index and element with indices strictly rising
and no element 0. An index that is not listed reads 0, its contents after reset (R28, entry 15). -/
abbrev Store := List (Nat × Nat)

/-- The architectural state, "exactly the following" (R10). -/
structure Arch where
  /-- `state`, the lanes (R11). -/
  lanes : Lanes
  /-- PAT, `io_pattern` (R15). -/
  pat : Store
  /-- `pattern_len` (R16). -/
  patternLen : Nat
  /-- `io_count` (R17). -/
  ioCount : Nat
  /-- `absorb_pos` (R19). -/
  absorbPos : Cursor
  /-- `squeeze_pos` (R20). -/
  squeezePos : Cursor
  /-- OUT, `out` (R21). -/
  out : Store
  /-- `out_len` (R21). -/
  outLen : Nat
  /-- `fault` (R22). -/
  fault : Status
  deriving DecidableEq, Repr

/-- The controller's hidden registers (R24, R141). -/
structure Ctrl where
  /-- `phase` (R140). -/
  phase : Phase
  /-- `cur_op`, the opcode of the command being run. -/
  curOp : Op
  /-- `cur_len`, its `len` field. -/
  curLen : BitVec LEN_BITS
  /-- `rem`, payload words still to consume, or for SQUEEZE elements still to produce. -/
  rem : Nat
  /-- `pend`, the outcome so far. -/
  pend : Status
  /-- `wr_idx`, the next PAT index START writes. -/
  wrIdx : Nat
  /-- `dout_idx`, the next OUT index DOUT sends. -/
  doutIdx : Nat
  deriving DecidableEq, Repr

/-- The environment's side of the ports (R60, R221): what the host has yet to send, what the block
has sent, the request the permutation unit holds, and the levels the environment drives. The model's
own fields (entries 9 to 11), except `permUnit`, which is the outstanding request of R24. -/
structure Ports where
  /-- Headers the host offers on CMD, oldest first. -/
  cmdIn : List Header
  /-- Payload words the host offers on DIN, oldest first. -/
  dinIn : List Nat
  /-- Response words transferred on RSP, oldest first (R70). -/
  rspOut : List RspWord
  /-- Words transferred on DOUT with their `dout_last`, oldest first (R72). -/
  doutOut : List (Nat × Bool)
  /-- States transferred on PREQ, oldest first (R127, R130). -/
  preqOut : List Lanes
  /-- The request the permutation unit has accepted and not yet answered (R24, R127). -/
  permUnit : Option Lanes
  /-- The level of `rst` (R200). -/
  rst : Bool
  /-- The level of the host's `rsp_ready`. -/
  rspReady : Bool
  /-- The level of the host's `dout_ready`. -/
  doutReady : Bool
  /-- The level of the unit's `preq_ready`. -/
  preqReady : Bool
  /-- Whether the unit offers on PRSP the answer it owes (R131 clause (c)). -/
  prspGo : Bool
  deriving DecidableEq, Repr

/-- The state of one engine and the environment's side of its ports. -/
structure State where
  arch : Arch
  ctrl : Ctrl
  ports : Ports
  deriving DecidableEq, Repr

/-- Why the machine stops with a fault. The errors of R170 are NOT faults: a command that ends in
one has a next state (R180). -/
inductive Fault where
  /-- An access to PAT at an index that does not exist, `>= PATTERN_MAX` (R42, U7). Raised by ABSORB
  and SQUEEZE reading PAT and by START_PAT writing it. Safe: the run stops, and no state that meets
  the invariant of R26 raises it. -/
  | patIndex
  /-- An access to OUT at an index that does not exist, `>= OUT_MAX` (R42, U7). Raised by SQUEEZE
  writing OUT and by DOUT reading it. Safe: the run stops, and no state that meets the invariant of
  R26 raises it. -/
  | outIndex
  deriving DecidableEq, Repr

/-- Why the machine refuses. -/
inductive Refusal where
  /-- The command has no meaning in this model yet; raised by `exec`'s arm alone. Safe. -/
  | notModelled (mnemonic : String)
  /-- A tag or message word `>= P`: "a model must refuse such a command" (R67, D3, U1). Raised by
  START and ABSORB. Safe: the model has no behaviour where the spec gives none. -/
  | wordNotCanonical
  /-- A PRSP lane `>= P`: outside the contract of the permutation unit (R131 clause (d), U1). Raised
  by PERM_WAIT. Safe: the model has no behaviour where the spec gives none. -/
  | responseNotCanonical
  deriving DecidableEq, Repr

/-- The answer of a step or of a meaning. -/
abbrev Result := Host.Outcome State Fault Refusal

/-- The cleared state with `fault = 0` (R27, R28). -/
def Arch.reset : Arch where
  lanes := Vector.replicate WIDTH 0
  pat := []
  patternLen := 0
  ioCount := 0
  absorbPos := 0
  squeezePos := 0
  out := []
  outLen := 0
  fault := .ok

/-- The hidden registers after reset: IDLE and 0 (R28, R201). -/
def Ctrl.reset : Ctrl where
  phase := .idle
  curOp := .start
  curLen := 0
  rem := 0
  pend := .ok
  wrIdx := 0
  doutIdx := 0

/-- The environment beside a block that has just been reset: nothing offered, nothing transferred,
no request outstanding (R131 clause (e), R202), `rst` released and every handshake accepted. The
levels and the empty lists are DESIGN CHOICES of the model (entries 9 and 11). -/
def Ports.reset : Ports where
  cmdIn := []
  dinIn := []
  rspOut := []
  doutOut := []
  preqOut := []
  permUnit := none
  rst := false
  rspReady := true
  doutReady := true
  preqReady := true
  prspGo := true

/-- The machine right after reset (R28, R201). -/
def State.reset : State where
  arch := Arch.reset
  ctrl := Ctrl.reset
  ports := Ports.reset

end Sys2Proof.Machine
end

