-- ==== Sys2Proof/Machine/Flags.lean ====
section
/-! DEFINITION. The condition state of the block: the status codes (R71), the rate cursors and their
sentinel (R19, R20, R42), the `fault` register (R181, R182), and the transcript's lifecycle (R162). -/

namespace Sys2Proof.Machine

/-- The 3-bit status code (R71). -/
def Status.code : Status → BitVec 3
  | .ok => 0#3
  | .patternMismatch => 1#3
  | .patternExhausted => 2#3
  | .badPattern => 3#3
  | .capacity => 4#3
  | .badCommand => 5#3

/-- The 4-bit value of `phase` (R140). -/
def Phase.code : Phase → BitVec 4
  | .idle => 0#4
  | .startClr => 1#4
  | .startPat => 2#4
  | .startTag => 3#4
  | .absElem => 4#4
  | .sqzElem => 5#4
  | .permReq => 6#4
  | .permWait => 7#4
  | .finClr => 8#4
  | .drain => 9#4
  | .resp => 10#4
  | .dout => 11#4

/-- The value RATE of a cursor: the rate region is exhausted (R19), a permutation must run before the
next read (R20). -/
def sentinel : Cursor := Fin.last RATE

/-- The lane a cursor addresses, index `pos + CAPACITY` (R41, R42); none at the sentinel, where no
lane is addressed (R134, U8). -/
def rateLane (pos : Cursor) : Option (Fin WIDTH) :=
  if h : pos.val < RATE then some ⟨pos.val + CAPACITY, Nat.add_lt_add_right h CAPACITY⟩ else none

/-- The lane of cursor value 0, `rate[0]` (R12). -/
def firstRateLane : Fin WIDTH := ⟨CAPACITY, by decide⟩

/-- The post-increment of a cursor (R42). It happens only below RATE (R107). -/
def Cursor.next (pos : Cursor) : Cursor :=
  if h : pos.val < RATE then ⟨pos.val + 1, Nat.succ_lt_succ h⟩ else sentinel

/-- `set_fault(c)`: the first error since `fault` was last cleared stays (R181). -/
def setFault (c : Status) (a : Arch) : Arch :=
  if a.fault = .ok then { a with fault := c } else a

/-- The clearing of the record by a well-formed START (R182). -/
def clearFault (a : Arch) : Arch := { a with fault := .ok }

/-- The transcript's lifecycle (R162): conditions on the architectural state, none of them stored. -/
inductive Lifecycle where
  /-- `pattern_len == 0`: reset, finished, or started with an empty pattern. -/
  | done
  /-- `pattern_len > 0` and `io_count == 0`. -/
  | fresh
  /-- `0 < io_count < pattern_len`. -/
  | active
  /-- `io_count == pattern_len > 0`. -/
  | exhausted
  deriving DecidableEq, Repr

/-- Which state of the lifecycle an engine is in (R162). -/
def lifecycle (a : Arch) : Lifecycle :=
  if a.patternLen = 0 then .done
  else if a.ioCount = 0 then .fresh
  else if a.ioCount < a.patternLen then .active
  else .exhausted

end Sys2Proof.Machine
end

