-- ==== Sys2Proof/Machine/Operands.lean ====
section
/-! DEFINITION. The operands of commands: the interface contract of tag and message words (R67), what
makes a pattern word legal (R67), the kind of a word by its position in the payload (R67 to R69), and
the packing of lanes on PREQ and PRSP (R4, R126). -/

namespace Sys2Proof.Machine

/-- The word is a canonical representative, `< P` (R4, R67). 0 is one whatever `P` is, which the first
disjunct lets the kernel see. -/
def canonicalWord (p : Params) (w : Nat) : Bool := w == 0 || decide (w < p.modulus)

/-- The pattern word is a legal entry: "if and only if `v != 0` and `v < 65536`" (R67). -/
def legalEntry (v : Nat) : Bool := v != 0 && decide (v < 65536)

/-- Every tag and message word of the command meets the contract of R67. -/
def inContract (p : Params) : Instr → Bool
  | .start _ tag => canonicalWord p tag
  | .absorb input => input.all (canonicalWord p)
  | .squeeze => true
  | .finish => true

/-- The kinds of a DIN word (R67). -/
inductive WordKind where
  /-- (a) a plain integer. -/
  | pattern
  /-- (b) a field element. -/
  | tag
  /-- (c) a field element. -/
  | message
  /-- A word of a malformed command's payload: consumed and discarded unread (R65, R66). -/
  | unread
  deriving DecidableEq, Repr

/-- The kind of the next payload word of the running command, "told apart only by position in the
payload" (R67 to R69): with `rem` words to come, START's last is the tag. -/
def nextWordKind (c : Ctrl) : WordKind :=
  if c.pend = .badCommand then .unread
  else match c.curOp with
    | .start => if c.rem = 1 then .tag else .pattern
    | .absorb => .message
    | .squeeze => .unread
    | .finish => .unread

/-- The word meets the contract of its kind (R67). -/
def wordInContract (p : Params) (c : Ctrl) (w : Nat) : Bool :=
  match nextWordKind c with
  | .pattern => true
  | .tag => canonicalWord p w
  | .message => canonicalWord p w
  | .unread => true

/-- `bitlength(n)`, the number of bits of the binary form of `n` (R7). -/
def bitlength (n : Nat) : Nat := if n = 0 then 0 else Nat.log2 n + 1

/-- FIELD_BITS = `bitlength(P-1)` (R4). -/
def fieldBits (p : Params) : Nat := bitlength (p.modulus - 1)

/-- POS_BITS = `bitlength(RATE)`, the width of the two rate cursors (R5). -/
def posBits : Nat := bitlength RATE

/-- CNT_BITS = `bitlength(PATTERN_MAX)`, the width of `io_count`, `pattern_len` and `wr_idx` (R5). -/
def cntBits (p : Params) : Nat := bitlength p.patternMax

/-- OLEN_BITS = `bitlength(OUT_MAX)`, the width of `out_len` and `dout_idx` (R5). -/
def olenBits (p : Params) : Nat := bitlength p.outMax

/-- The value on `din_data` and `dout_data`: FIELD_BITS bits (R60). -/
abbrev FieldWord (p : Params) := BitVec (fieldBits p)

/-- The value on `preq_state` and `prsp_state`: WIDTH * FIELD_BITS bits (R60, R126). -/
abbrev StateWord (p : Params) := BitVec (WIDTH * fieldBits p)

/-- The word fits `din_data`, so that a host can present it (R60; entry 8). 0 fits every width, which
the first disjunct lets the kernel see. -/
def fitsBus (p : Params) (w : Nat) : Bool := w == 0 || decide (w < 2 ^ fieldBits p)

/-- `din_data` while the host presents the word `w`; a word that the bus cannot carry is never
presented (R60; entry 8). -/
def busWord (p : Params) (w : Nat) : Option (FieldWord p) :=
  if fitsBus p w then some (BitVec.ofNat (fieldBits p) w) else none

/-- `preq_state`: lane `i` in bits `[(i+1)*F-1 : i*F]` with `F = FIELD_BITS` (R126). -/
def packLanes (p : Params) (l : Lanes) : StateWord p :=
  BitVec.ofNat (WIDTH * fieldBits p)
    (l[0] + l[1] * 2 ^ fieldBits p + l[2] * 2 ^ (2 * fieldBits p) + l[3] * 2 ^ (3 * fieldBits p))

/-- The `i`-th field of FIELD_BITS bits of `prsp_state`, as an integer (R126). -/
def laneField (p : Params) (w : StateWord p) (i : Nat) : Nat :=
  (w.extractLsb' (i * fieldBits p) (fieldBits p)).toNat

/-- `prsp_state` unpacked (R126, R129). -/
def unpackLanes (p : Params) (w : StateWord p) : Lanes :=
  #v[laneField p w 0, laneField p w 1, laneField p w 2, laneField p w 3]

/-- Every lane of a permutation's answer is canonical (R131 clause (d)). -/
def canonicalLanes (p : Params) (l : Lanes) : Bool := l.toList.all (canonicalWord p)

end Sys2Proof.Machine
end

