-- ==== Sys2Proof/Machine/Ops.lean ====
section
/-! DEFINITION. The named operations the commands share: the stores PAT and OUT (R40, R42), field
addition (R4, R107), the writes of the state register (R134), `clear_all` (R27), an invocation of the
permutation (R125, R129), the end of a command with its response (R70), and the raising of an error
(R179 to R181). -/

namespace Sys2Proof.Machine

/-! ## Stores -/

/-- One element of a store; an index that is not listed reads 0 (R28). -/
def Store.read : Store → Nat → Nat
  | [], _ => 0
  | (j, w) :: r, i => if i = j then w else Store.read r i

/-- Writing one element, keeping the canonical form: writing 0 removes the entry. -/
def Store.write : Store → Nat → Nat → Store
  | [], i, v => if v = 0 then [] else [(i, v)]
  | (j, w) :: r, i, v =>
    if i < j then (if v = 0 then (j, w) :: r else (i, v) :: (j, w) :: r)
    else if i = j then (if v = 0 then r else (i, v) :: r)
    else (j, w) :: Store.write r i v

/-- The canonical form from index `lo` on: indices strictly rising, no element 0. -/
def Store.wfFrom : Nat → Store → Bool
  | _, [] => true
  | lo, (i, v) :: r => decide (lo ≤ i) && v != 0 && Store.wfFrom (i + 1) r

/-- The canonical form of a store (entry 15). -/
def Store.wf (m : Store) : Bool := Store.wfFrom 0 m

/-- `MemRead(PAT, i)` (R8, R40). An index outside PAT is a fault (R42, U7; entry 14). -/
def patRead (p : Params) (a : Arch) (i : Nat) : Except Fault Nat :=
  if i < p.patternMax then .ok (Store.read a.pat i) else .error .patIndex

/-- `MemWrite(PAT, i, v)` (R8, R40, R42; entry 14). -/
def patWrite (p : Params) (a : Arch) (i v : Nat) : Except Fault Arch :=
  if i < p.patternMax then .ok { a with pat := Store.write a.pat i v } else .error .patIndex

/-- `MemRead(OUT, i)` (R8, R40, R42; entry 14). -/
def outRead (p : Params) (a : Arch) (i : Nat) : Except Fault Nat :=
  if i < p.outMax then .ok (Store.read a.out i) else .error .outIndex

/-- `MemWrite(OUT, i, v)` (R8, R40, R42; entry 14). -/
def outWrite (p : Params) (a : Arch) (i : Nat) (v : Nat) : Except Fault Arch :=
  if i < p.outMax then .ok { a with out := Store.write a.out i v } else .error .outIndex

/-- `MemWrite(PAT, i, v)` for a whole pattern, entry 0 first, from index `i` on (R90). -/
def loadPattern : List Nat → Nat → Store → Store
  | [], _, m => m
  | v :: vs, i, m => loadPattern vs (i + 1) (Store.write m i v)

/-! ## Lanes -/

/-- Field addition on canonical representatives (R4, R103, R107). -/
def fadd (p : Params) (a b : Nat) : Nat := (a + b) % p.modulus

/-- All lanes 0: the effect CLEAR (R134). -/
def zeroLanes : Lanes := Vector.replicate WIDTH 0

/-- The tag into capacity lane 0: the effect TAG (R90, R134). -/
def tagLanes (l : Lanes) (tag : Nat) : Lanes := l.set 0 tag

/-- The field sum into lane `i`, added and not overwritten: the effect ADD (R101, R103, R134). -/
def addLane (p : Params) (l : Lanes) (i : Fin WIDTH) (x : Nat) : Lanes :=
  l.set i.val (fadd p l[i] x) i.isLt

/-! ## Clearing and the permutation -/

/-- `clear_all` (R27): everything but `fault`. -/
def clearAll (a : Arch) : Arch :=
  { Arch.reset with fault := a.fault }

/-- The reset edge's effect on the block (R201): `clear_all`, `fault <- 0`, IDLE, every hidden
register 0. The permutation unit is reset with it, so no answer is outstanding (R131 clause (e),
R202). What the host has yet to send stays with the host, and what was transferred stays so. -/
def resetBlock (s : State) : State :=
  { arch := Arch.reset, ctrl := Ctrl.reset, ports := { s.ports with permUnit := none } }

/-- One invocation of the permutation is recorded as one PREQ transfer (R127, R130). -/
def recordRequest (s : State) : State :=
  { s with ports := { s.ports with preqOut := s.ports.preqOut ++ [s.arch.lanes] } }

/-- The absorb path's invocation: the whole state is replaced and `absorb_pos` reset; `squeeze_pos`
is unchanged (R101, R125, R129). -/
def permuteForAbsorb (p : Params) (s : State) : State :=
  { recordRequest s with
    arch := { s.arch with lanes := p.permute s.arch.lanes, absorbPos := 0 } }

/-- The squeeze path's invocation: the whole state is replaced and both cursors reset (R111, R125,
R129). -/
def permuteForSqueeze (p : Params) (s : State) : State :=
  { recordRequest s with
    arch := { s.arch with lanes := p.permute s.arch.lanes, squeezePos := 0, absorbPos := 0 } }

/-! ## The end of a command -/

/-- The response word: `status[2:0]`, `count[23:8]`, `op_echo[25:24]`, the other bits 0 (R70). -/
def rspWord (op : Op) (st : Status) (count : Nat) : RspWord :=
  0#6 ++ op.code ++ BitVec.ofNat 16 count ++ 0#5 ++ st.code

/-- `count`: `out_len` for a SQUEEZE with status OK, otherwise 0 (R70, R153). -/
def rspCount (op : Op) (st : Status) (a : Arch) : Nat :=
  match op, st with
  | .squeeze, .ok => a.outLen
  | _, _ => 0

/-- The response is transferred on RSP (R70, R153). -/
def sendResponse (op : Op) (st : Status) (s : State) : State :=
  { s with ports := { s.ports with rspOut := s.ports.rspOut ++ [rspWord op st (rspCount op st s.arch)] } }

/-- Every command ends so: one response word, after its state changes (R70), the controller in IDLE
(R163), its registers as the micro-steps R142 to R153 leave them (entry 13). -/
def finishCommand (op : Op) (len : BitVec LEN_BITS) (st : Status) (s : State) : State :=
  { sendResponse op st s with
    ctrl := { s.ctrl with phase := .idle, curOp := op, curLen := len, rem := 0, pend := st } }

/-- The raising of an error, the block's trap entry (R179 to R181): the code goes to `fault` if no
earlier error stands there and to the response; nothing else of the architectural state changes, and
control goes back to IDLE. There is no return from it (R182): the record is cleared by START
(`clearFault`) and by reset. -/
def raiseError (op : Op) (len : BitVec LEN_BITS) (st : Status) (s : State) : State :=
  finishCommand op len st { s with arch := setFault st s.arch }

/-- The elements of OUT from index `i` on, `n` of them, as DOUT sends them: the last with
`dout_last = 1` (R72). -/
def outWords (a : Arch) : Nat → Nat → List (Nat × Bool)
  | _, 0 => []
  | i, n + 1 => (Store.read a.out i, n == 0) :: outWords a (i + 1) n

/-- The output stream of a SQUEEZE with status OK: the whole accumulator on DOUT, index 0 first (R72,
R113); `dout_idx` is left at the last index sent (R154). -/
def streamOut (s : State) : State :=
  { s with
    ports := { s.ports with doutOut := s.ports.doutOut ++ outWords s.arch 0 s.arch.outLen }
    ctrl := { s.ctrl with doutIdx := s.arch.outLen - 1 } }

/-- A malformed header (R65, R175): BadCommand, whatever its `op`; nothing but `fault` changes. Its
payload is drained by whoever calls this (R66). -/
def execMalformed (h : Header) (s : State) : Result :=
  .next (raiseError (hdrOp h) (hdrLen h) .badCommand s)

end Sys2Proof.Machine
end

