-- ==== Sys2Proof/Machine/Absorb.lean ====
section
/-! DEFINITION. The ABSORB command (R100 to R107). -/

namespace Sys2Proof.Machine

/-- The lane access of one element: the field sum into the lane, then the cursor (R42, R101). -/
def addElem (p : Params) (i : Fin WIDTH) (x : Nat) (s : State) : State :=
  { s with arch := { s.arch with
      lanes := addLane p s.arch.lanes i x
      absorbPos := s.arch.absorbPos.next } }

/-- `absorb_elem(x)` (R101): at RATE the permutation first, which resets `absorb_pos`. -/
def absorbElem (p : Params) (x : Nat) (s : State) : State :=
  match rateLane s.arch.absorbPos with
  | some i => addElem p i x s
  | none => addElem p firstRateLane x (permuteForAbsorb p s)

/-- The element steps in order, element 0 first (R44, R100). -/
def absorbElems (p : Params) : List Nat → State → State
  | [], s => s
  | x :: xs, s => absorbElems p xs (absorbElem p x s)

/-- What follows the loop: `io_count <- io_count + 1`, `squeeze_pos <- RATE` (R100). -/
def absorbDone (s : State) : State :=
  { s with arch := { s.arch with ioCount := s.arch.ioCount + 1, squeezePos := sentinel } }

/-- ABSORB at the parameters `p` (R100): PatternExhausted, then PatternMismatch (R102, R178), both
before any change; then the loop. A message word `>= P` is refused (R67; entry 7). -/
def absorbWith (p : Params) (input : List Nat) (s : State) : Result :=
  if !input.all (canonicalWord p) then .refused .wordNotCanonical
  else if s.arch.ioCount = s.arch.patternLen then
    .next (raiseError .absorb (BitVec.ofNat 16 input.length) .patternExhausted s)
  else match patRead p s.arch s.arch.ioCount with
    | .error f => .fault f
    | .ok n =>
      if n ≠ input.length then .next (raiseError .absorb (BitVec.ofNat 16 input.length) .patternMismatch s)
      else .next (finishCommand .absorb (BitVec.ofNat 16 input.length) .ok
        (absorbDone (absorbElems p input s)))

/-- The meaning of ABSORB. -/
def execAbsorb (input : List Nat) (s : State) : Result :=
  absorbWith Config.hw input s

end Sys2Proof.Machine
end

