-- ==== Sys2Proof/Machine/Finish.lean ====
section
/-! DEFINITION. The FINISH command (R120 to R123). -/

namespace Sys2Proof.Machine

/-- The meaning of FINISH (R120): `clear_all`; `fault` keeps its value; it never fails. -/
def execFinish (s : State) : Result :=
  .next (finishCommand .finish 0 .ok { s with arch := clearAll s.arch })

end Sys2Proof.Machine
end

