-- ==== Sys2Proof/Machine/Squeeze.lean ====
section
/-! DEFINITION. The SQUEEZE command (R110 to R116). -/

namespace Sys2Proof.Machine

/-- The lane access of one element: the lane copied to OUT at `out_len`, then the cursors (R42, R111).
The lane keeps its value. -/
def takeElem (p : Params) (i : Fin WIDTH) (s : State) : Except Fault State :=
  match outWrite p s.arch s.arch.outLen s.arch.lanes[i] with
  | .error f => .error f
  | .ok a => .ok { s with arch := { a with
      outLen := s.arch.outLen + 1
      squeezePos := s.arch.squeezePos.next } }

/-- `squeeze_elem()` (R111): at RATE the permutation first, which resets both cursors. -/
def squeezeElem (p : Params) (s : State) : Except Fault State :=
  match rateLane s.arch.squeezePos with
  | some i => takeElem p i s
  | none => takeElem p firstRateLane (permuteForSqueeze p s)

/-- `n` element steps (R110). -/
def squeezeElems (p : Params) : Nat → State → Except Fault State
  | 0, s => .ok s
  | n + 1, s =>
    match squeezeElem p s with
    | .error f => .error f
    | .ok s' => squeezeElems p n s'

/-- What follows the loop: `io_count <- io_count + 1` (R110). -/
def squeezeDone (s : State) : State :=
  { s with arch := { s.arch with ioCount := s.arch.ioCount + 1 } }

/-- SQUEEZE at the parameters `p` (R110): PatternExhausted, then Capacity (R112, R178), both before
any change; then the loop, the response and the whole accumulator on DOUT (R72, R113). -/
def squeezeWith (p : Params) (s : State) : Result :=
  if s.arch.ioCount = s.arch.patternLen then
    .next (raiseError .squeeze 0 .patternExhausted s)
  else match patRead p s.arch s.arch.ioCount with
    | .error f => .fault f
    | .ok n =>
      if p.outMax < s.arch.outLen + n then .next (raiseError .squeeze 0 .capacity s)
      else match squeezeElems p n s with
        | .error f => .fault f
        | .ok s' => .next (streamOut (finishCommand .squeeze 0 .ok (squeezeDone s')))

/-- The meaning of SQUEEZE. -/
def execSqueeze (s : State) : Result := squeezeWith Config.hw s

end Sys2Proof.Machine
end

