-- ==== Sys2Proof/Machine/Start.lean ====
section
/-! DEFINITION. The START command (R90 to R95). -/

namespace Sys2Proof.Machine

/-- START's first act: `clear_all`, `fault <- 0`, `wr_idx <- 0` (R90, R143, R182). -/
def startClear (s : State) : State :=
  { s with arch := clearFault (clearAll s.arch), ctrl := { s.ctrl with wrIdx := 0 } }

/-- The pattern stored, its length set, the tag in capacity lane 0 (R90). -/
def startLoad (pattern : List Nat) (tag : Nat) (s : State) : State :=
  { s with
    arch := { s.arch with
      pat := loadPattern pattern 0 s.arch.pat
      patternLen := pattern.length
      lanes := tagLanes s.arch.lanes tag }
    ctrl := { s.ctrl with wrIdx := pattern.length } }

/-- `wr_idx` where START_PAT met the first illegal entry (R144): the number of entries before it. -/
def firstIllegal (pattern : List Nat) : Nat := (pattern.takeWhile legalEntry).length

/-- START's checks and load on the cleared engine: Capacity, then BadPattern (R91, R178), which leave
it cleared (R92); then the load (R90). -/
def startOn (p : Params) (pattern : List Nat) (tag : Nat) (s : State) : State :=
  if p.patternMax < pattern.length then
    raiseError .start (BitVec.ofNat 16 pattern.length) .capacity s
  else if !pattern.all legalEntry then
    raiseError .start (BitVec.ofNat 16 pattern.length) .badPattern
      { s with ctrl := { s.ctrl with wrIdx := firstIllegal pattern } }
  else finishCommand .start (BitVec.ofNat 16 pattern.length) .ok (startLoad pattern tag s)

/-- START at the parameters `p` (R90): the cleared state first, then the checks and the load. A tag
`>= P` is refused (R67; entry 7). -/
def startWith (p : Params) (pattern : List Nat) (tag : Nat) (s : State) : Result :=
  if !canonicalWord p tag then .refused .wordNotCanonical
  else .next (startOn p pattern tag (startClear s))

/-- The meaning of START. -/
def execStart (pattern : List Nat) (tag : Nat) (s : State) : Result :=
  startWith Config.hw pattern tag s

end Sys2Proof.Machine
end

