-- ==== Sys2Proof/Machine/Dispatch.lean ====
section
/-! DEFINITION. The meaning of each command, one arm per constructor of Instr (R6, Level A). -/

namespace Sys2Proof.Machine

def exec (i : Instr) (s : State) : Host.Outcome State Fault Refusal :=
  match i with
  | .start pattern tag => Sys2Proof.Machine.execStart pattern tag s
  | .absorb input => Sys2Proof.Machine.execAbsorb input s
  | .squeeze => Sys2Proof.Machine.execSqueeze s
  | .finish => Sys2Proof.Machine.execFinish s

end Sys2Proof.Machine
end

