-- ==== Sys2Proof/Machine/Pins.lean ====
section
/-! DEFINITION. The ports of the block (R60, R61): what the environment drives at one rising edge of
`clk`, what the block drives (R23, R155), and on which channel a transfer happens. A channel's `valid`
and payload are one option: none is `valid = 0`, whose payload is ignored (R61). -/

namespace Sys2Proof.Machine

/-- The inputs of the block at one rising edge, each of its width (R60). -/
structure Pins (p : Params) where
  /-- `rst`. -/
  rst : Bool
  /-- `cmd_valid` and `cmd_hdr`. -/
  cmd : Option Header
  /-- `din_valid` and `din_data`. -/
  din : Option (FieldWord p)
  /-- `rsp_ready`. -/
  rspReady : Bool
  /-- `dout_ready`. -/
  doutReady : Bool
  /-- `preq_ready`. -/
  preqReady : Bool
  /-- `prsp_valid` and `prsp_state`. -/
  prsp : Option (StateWord p)
  deriving DecidableEq, Repr

/-- The outputs of the block, each of its width (R60). -/
structure Outs (p : Params) where
  /-- `cmd_ready`. -/
  cmdReady : Bool
  /-- `din_ready`. -/
  dinReady : Bool
  /-- `rsp_valid` and `rsp_word`. -/
  rsp : Option RspWord
  /-- `dout_valid`, `dout_data` and `dout_last`. -/
  dout : Option (FieldWord p × Bool)
  /-- `preq_valid` and `preq_state`. -/
  preq : Option (StateWord p)
  /-- `prsp_ready`. -/
  prspReady : Bool
  /-- `st_busy` (R23). -/
  stBusy : Bool
  /-- `st_fault[2:0]` (R23). -/
  stFault : BitVec 3
  /-- `st_io_count` (R23). -/
  stIoCount : BitVec (cntBits p)
  /-- `st_pattern_len` (R23). -/
  stPatternLen : BitVec (cntBits p)
  /-- `st_out_len` (R23). -/
  stOutLen : BitVec (olenBits p)
  deriving DecidableEq, Repr

/-- `cmd_ready`, in IDLE whatever the engine's condition (R142, R155). -/
def cmdReady (c : Ctrl) : Bool := c.phase == .idle

/-- `din_ready` (R144 to R146, R152, R155). -/
def dinReady (a : Arch) (c : Ctrl) : Bool :=
  match c.phase with
  | .startPat => true
  | .startTag => true
  | .absElem => decide (a.absorbPos.val < RATE)
  | .drain => decide (0 < c.rem)
  | _ => false

/-- The response offered in RESP (R153). -/
def rspOffer (a : Arch) (c : Ctrl) : Option RspWord :=
  match c.phase with
  | .resp => some (rspWord c.curOp c.pend (rspCount c.curOp c.pend a))
  | _ => none

/-- The element offered in DOUT, with `dout_last` (R154). At an index outside OUT, which no reachable
state has, nothing is offered (R42). -/
def doutOffer (p : Params) (a : Arch) (c : Ctrl) : Option (FieldWord p × Bool) :=
  match c.phase, outRead p a c.doutIdx with
  | .dout, .ok v => some (BitVec.ofNat (fieldBits p) v, c.doutIdx == a.outLen - 1)
  | _, _ => none

/-- The request offered in PERM_REQ: the register's current content, packed (R126, R127, R149). -/
def preqOffer (p : Params) (a : Arch) (c : Ctrl) : Option (StateWord p) :=
  match c.phase with
  | .permReq => some (packLanes p a.lanes)
  | _ => none

/-- `prsp_ready` (R127, R150, R155). -/
def prspReady (c : Ctrl) : Bool := c.phase == .permWait

/-- The outputs of the block while `rst` has the level given: every `valid` and `ready` is 0 under
reset (R155, R201); the status port is valid in every cycle (R23). -/
def outputs (p : Params) (rst : Bool) (s : State) : Outs p where
  cmdReady := !rst && cmdReady s.ctrl
  dinReady := !rst && dinReady s.arch s.ctrl
  rsp := if rst then none else rspOffer s.arch s.ctrl
  dout := if rst then none else doutOffer p s.arch s.ctrl
  preq := if rst then none else preqOffer p s.arch s.ctrl
  prspReady := !rst && prspReady s.ctrl
  stBusy := s.ctrl.phase != .idle
  stFault := s.arch.fault.code
  stIoCount := BitVec.ofNat (cntBits p) s.arch.ioCount
  stPatternLen := BitVec.ofNat (cntBits p) s.arch.patternLen
  stOutLen := BitVec.ofNat (olenBits p) s.arch.outLen

/-- Which of the six channels transfers at an edge (R61): `rst` is 0 and `valid` and `ready` are 1. -/
structure Transfers where
  cmd : Bool
  din : Bool
  rsp : Bool
  dout : Bool
  preq : Bool
  prsp : Bool
  deriving DecidableEq, Repr

/-- The transfers of an edge (R61). -/
def transfers (p : Params) (pins : Pins p) (s : State) : Transfers :=
  { cmd := pins.cmd.isSome && (outputs p pins.rst s).cmdReady
    din := pins.din.isSome && (outputs p pins.rst s).dinReady
    rsp := (outputs p pins.rst s).rsp.isSome && pins.rspReady
    dout := (outputs p pins.rst s).dout.isSome && pins.doutReady
    preq := (outputs p pins.rst s).preq.isSome && pins.preqReady
    prsp := pins.prsp.isSome && (outputs p pins.rst s).prspReady }

end Sys2Proof.Machine
end

