-- ==== Sys2Proof/Machine/Arbiter.lean ====
section
/-! DEFINITION. The permutation arbiter (R128) and the absorb/squeeze mux (R134). -/

namespace Sys2Proof.Machine

/-- `abs_req`: the absorb path asks for the permutation (R128). -/
def absReq (a : Arch) (c : Ctrl) : Bool := c.phase == .absElem && a.absorbPos == sentinel

/-- `sqz_req`: the squeeze path asks for the permutation (R128). -/
def sqzReq (a : Arch) (c : Ctrl) : Bool := c.phase == .sqzElem && a.squeezePos == sentinel

/-- The arbiter's grant; were both requests ever 1, the squeeze path would win (R128). -/
def grant (a : Arch) (c : Ctrl) : Option Op :=
  if sqzReq a c then some .squeeze else if absReq a c then some .absorb else none

/-- The five effects of the state register's write mux (R134); the select values 5 to 7 are never
driven (U6). -/
inductive StSel where
  | hold
  | clear
  | tag
  | add
  | perm
  deriving DecidableEq, Repr

/-- The 3-bit select value of R134. -/
def StSel.code : StSel → BitVec 3
  | .hold => 0#3
  | .clear => 1#3
  | .tag => 2#3
  | .add => 3#3
  | .perm => 4#3

/-- The mux's effect on the lanes (R134): `din` is the word on DIN, `prsp` the unit's answer. ADD is
driven only below RATE; at RATE no lane is selected. -/
def muxLanes (p : Params) (sel : StSel) (absorbPos : Cursor) (din : Nat) (prsp : Lanes)
    (l : Lanes) : Lanes :=
  match sel with
  | .hold => l
  | .clear => zeroLanes
  | .tag => tagLanes l din
  | .add =>
    match rateLane absorbPos with
    | some i => addLane p l i din
    | none => l
  | .perm => prsp

/-- What the controller drives on the select at an edge (R134): CLEAR in START_CLR, FIN_CLR and reset;
TAG at START_TAG's DIN transfer with `pend == 0`; ADD at ABS_ELEM's DIN transfer below RATE; PERM at
the PRSP transfer; HOLD in every other cycle. -/
def stSel (p : Params) (pins : Pins p) (s : State) : StSel :=
  if pins.rst then .clear
  else match s.ctrl.phase with
    | .startClr => .clear
    | .finClr => .clear
    | .startTag => if (transfers p pins s).din && s.ctrl.pend == .ok then .tag else .hold
    | .absElem => if (transfers p pins s).din then .add else .hold
    | .permWait => if (transfers p pins s).prsp then .perm else .hold
    | _ => .hold

/-- The read mux: `rate[squeeze_pos]`; at the sentinel its output is not defined (R134, U8). -/
def readMux (l : Lanes) (squeezePos : Cursor) : Option Nat :=
  match rateLane squeezePos with
  | some i => some l[i]
  | none => none

end Sys2Proof.Machine
end

