-- ==== Sys2Proof/Machine/Controller.lean ====
section
/-! DEFINITION. The transition controller at the port level (R140 to R155): one micro-step per phase,
one rising edge of `clk` under any pins (R61, R140, R200), and one edge against the environment that
State holds (R131, R221). -/

namespace Sys2Proof.Machine

/-! ## Micro-steps -/

/-- The phase changes and nothing else does. -/
def goto (ph : Phase) (s : State) : State := { s with ctrl := { s.ctrl with phase := ph } }

/-- A command that ends in error: the code in `pend` and in `fault`, then the phase (R142). -/
def errorTo (c : Status) (ph : Phase) (s : State) : State :=
  { s with arch := setFault c s.arch, ctrl := { s.ctrl with pend := c, phase := ph } }

/-- The header's fields taken at acceptance (R142). -/
def acceptHeader (h : Header) (s : State) : State :=
  { s with ctrl := { s.ctrl with curOp := hdrOp h, curLen := hdrLen h, rem := paylen h, pend := .ok } }

/-- The checks of ABSORB at acceptance (R102, R142). -/
def acceptAbsorb (p : Params) (s : State) : Result :=
  if s.arch.ioCount = s.arch.patternLen then .next (errorTo .patternExhausted .drain s)
  else match patRead p s.arch s.arch.ioCount with
    | .error f => .fault f
    | .ok n =>
      if n ≠ s.ctrl.curLen.toNat then .next (errorTo .patternMismatch .drain s)
      else .next (goto .absElem s)

/-- The checks of SQUEEZE at acceptance (R112, R142). -/
def acceptSqueeze (p : Params) (s : State) : Result :=
  if s.arch.ioCount = s.arch.patternLen then .next (errorTo .patternExhausted .resp s)
  else match patRead p s.arch s.arch.ioCount with
    | .error f => .fault f
    | .ok n =>
      if p.outMax < s.arch.outLen + n then .next (errorTo .capacity .resp s)
      else .next (goto .sqzElem { s with ctrl := { s.ctrl with rem := n } })

/-- The command an accepted header begins, or BadCommand (R142). -/
def beginCommand (p : Params) (h : Header) (s : State) : Result :=
  if !hdrWellFormed h then .next (errorTo .badCommand .drain s)
  else match hdrOp h with
    | .start => .next (goto .startClr s)
    | .absorb => acceptAbsorb p s
    | .squeeze => acceptSqueeze p s
    | .finish => .next (goto .finClr s)

/-- IDLE at the CMD transfer of header `h` (R142). -/
def idleStep (p : Params) (h : Header) (s : State) : Result := beginCommand p h (acceptHeader h s)

/-- The check of START_CLR on the cleared engine (R91, R143). -/
def startCheck (p : Params) (s : State) : State :=
  if p.patternMax < s.ctrl.curLen.toNat then errorTo .capacity .drain s
  else if s.ctrl.curLen = 0 then goto .startTag s
  else goto .startPat s

/-- START_CLR (R143). -/
def startClrStep (p : Params) (s : State) : State := startCheck p (startClear s)

/-- One payload word consumed: `rem <- rem - 1`. -/
def countWord (s : State) : State := { s with ctrl := { s.ctrl with rem := s.ctrl.rem - 1 } }

/-- PAT zeroed again (R144). -/
def clearPat (s : State) : State := { s with arch := { s.arch with pat := [] } }

/-- The entry at `wr_idx` written as `a` has it; after the last one START_TAG follows (R144). -/
def nextEntry (a : Arch) (s : State) : State :=
  { s with
    arch := a
    ctrl := { s.ctrl with
      wrIdx := s.ctrl.wrIdx + 1
      phase := if s.ctrl.wrIdx + 1 = s.ctrl.curLen.toNat then .startTag else .startPat } }

/-- The pattern word `w` checked and written (R144). -/
def takeEntry (p : Params) (w : Nat) (s : State) : Result :=
  if !legalEntry w then .next (clearPat (errorTo .badPattern .drain s))
  else match patWrite p s.arch s.ctrl.wrIdx w with
    | .error f => .fault f
    | .ok a => .next (nextEntry a s)

/-- START_PAT at the DIN transfer of `w` (R144). -/
def startPatStep (p : Params) (w : Nat) (s : State) : Result := takeEntry p w (countWord s)

/-- The tag written and the pattern's length set (R145). -/
def takeTag (w : Nat) (s : State) : State :=
  { s with arch := { s.arch with
      lanes := tagLanes s.arch.lanes w, patternLen := s.ctrl.curLen.toNat } }

/-- START_TAG at the DIN transfer of `w` (R145). -/
def startTagStep (w : Nat) (s : State) : State := goto .resp (takeTag w (countWord s))

/-- The end of ABSORB's loop when no element is left (R146). -/
def absorbNext (s : State) : State :=
  if s.ctrl.rem = 0 then goto .resp (absorbDone s) else s

/-- ABS_ELEM at the DIN transfer of `w` into lane `i` (R146). -/
def absElemStep (p : Params) (i : Fin WIDTH) (w : Nat) (s : State) : State :=
  absorbNext (countWord (addElem p i w s))

/-- The end of SQUEEZE's loop when no element is left (R147). -/
def squeezeNext (s : State) : State :=
  if s.ctrl.rem = 0 then goto .resp (squeezeDone s) else s

/-- SQZ_ELEM with lane `i` selected (R147). -/
def sqzElemStep (p : Params) (i : Fin WIDTH) (s : State) : Result :=
  match takeElem p i s with
  | .error f => .fault f
  | .ok t => .next (squeezeNext (countWord t))

/-- The request the permutation unit holds, or none (R24, R127). -/
def setUnit (l : Option Lanes) (s : State) : State := { s with ports := { s.ports with permUnit := l } }

/-- PERM_REQ at the PREQ transfer: the unit holds the request (R149). -/
def permReqStep (s : State) : State := goto .permWait (setUnit (some s.arch.lanes) (recordRequest s))

/-- The write-back of the answer `l` and the cursor reset, by the path that asked, `cur_op`; the phase
that asked follows (R129, R150). No other command asks. -/
def writeBack (l : Lanes) (s : State) : State :=
  match s.ctrl.curOp with
  | .absorb => goto .absElem { s with arch := { s.arch with lanes := l, absorbPos := 0 } }
  | .squeeze =>
    goto .sqzElem { s with arch := { s.arch with lanes := l, squeezePos := 0, absorbPos := 0 } }
  | .start => { s with arch := { s.arch with lanes := l } }
  | .finish => { s with arch := { s.arch with lanes := l } }

/-- PERM_WAIT at the PRSP transfer of the answer `l` (R150). An answer outside the contract is refused
(R131 clause (d)). -/
def permWaitStep (p : Params) (l : Lanes) (s : State) : Result :=
  if !canonicalLanes p l then .refused .responseNotCanonical
  else .next (writeBack l (setUnit none s))

/-- FIN_CLR (R151). -/
def finClrStep (s : State) : State := goto .resp { s with arch := clearAll s.arch }

/-- After the response: a successful SQUEEZE streams its output, every other command has ended
(R153). -/
def afterResponse (s : State) : State :=
  if s.ctrl.curOp = .squeeze ∧ s.ctrl.pend = .ok then
    goto .dout { s with ctrl := { s.ctrl with doutIdx := 0 } }
  else goto .idle s

/-- RESP at the RSP transfer (R153). -/
def respStep (s : State) : State := afterResponse (sendResponse s.ctrl.curOp s.ctrl.pend s)

/-- The element `v` transferred on DOUT with its `dout_last` (R154). -/
def sendElem (v : Nat) (last : Bool) (s : State) : State :=
  { s with ports := { s.ports with doutOut := s.ports.doutOut ++ [(v, last)] } }

/-- After an element: the next index, or the end of the command (R154). -/
def afterElem (s : State) : State :=
  if s.ctrl.doutIdx = s.arch.outLen - 1 then goto .idle s
  else { s with ctrl := { s.ctrl with doutIdx := s.ctrl.doutIdx + 1 } }

/-- DOUT at the DOUT transfer (R154). -/
def doutStep (p : Params) (s : State) : Result :=
  match outRead p s.arch s.ctrl.doutIdx with
  | .error f => .fault f
  | .ok v => .next (afterElem (sendElem v (s.ctrl.doutIdx == s.arch.outLen - 1) s))

/-! ## One rising edge -/

/-- The micro-step of a phase that takes the payload word `w` from DIN (R144 to R146, R152). A word
outside the contract of its kind is refused (R67). -/
def dinStep (p : Params) (w : Nat) (s : State) : Result :=
  if !wordInContract p s.ctrl w then .refused .wordNotCanonical
  else match s.ctrl.phase with
    | .startPat => startPatStep p w s
    | .startTag => .next (startTagStep w s)
    | .absElem =>
      match rateLane s.arch.absorbPos with
      | some i => .next (absElemStep p i w s)
      | none => .next s
    | .drain => .next (countWord s)
    | _ => .next s

/-- One rising edge of `clk` under the pins (R61, R140, R200): reset wins; a phase that waits on a
channel does its micro-step where that channel transfers and nothing otherwise; a phase without a
channel does it at once. -/
def clockEdge (p : Params) (pins : Pins p) (s : State) : Result :=
  if pins.rst then .next (resetBlock s)
  else match s.ctrl.phase with
    | .idle =>
      match pins.cmd with
      | some h => idleStep p h s
      | none => .next s
    | .startClr => .next (startClrStep p s)
    | .startPat =>
      match pins.din with
      | some w => dinStep p w.toNat s
      | none => .next s
    | .startTag =>
      match pins.din with
      | some w => dinStep p w.toNat s
      | none => .next s
    | .absElem =>
      match grant s.arch s.ctrl, pins.din with
      | some _, _ => .next (goto .permReq s)
      | none, some w => dinStep p w.toNat s
      | none, none => .next s
    | .sqzElem =>
      match grant s.arch s.ctrl, rateLane s.arch.squeezePos with
      | some _, _ => .next (goto .permReq s)
      | none, some i => sqzElemStep p i s
      | none, none => .next s
    | .permReq => .next (if pins.preqReady then permReqStep s else s)
    | .permWait =>
      match pins.prsp with
      | some v => permWaitStep p (unpackLanes p v) s
      | none => .next s
    | .finClr => .next (finClrStep s)
    | .drain =>
      if s.ctrl.rem = 0 then .next (goto .resp s)
      else match pins.din with
        | some w => dinStep p w.toNat s
        | none => .next s
    | .resp => .next (if pins.rspReady then respStep s else s)
    | .dout => if pins.doutReady then doutStep p s else .next s

/-! ## One edge against the environment in State -/

/-- What the environment in State drives: the host offers its oldest header and its oldest payload
word where the bus can carry it, the unit offers `permute` of the request it holds (R131 clause (a)), and every level is as State
has it (R221). -/
def envPins (p : Params) (s : State) : Pins p where
  rst := s.ports.rst
  cmd := s.ports.cmdIn.head?
  din := s.ports.dinIn.head?.bind (busWord p)
  rspReady := s.ports.rspReady
  doutReady := s.ports.doutReady
  preqReady := s.ports.preqReady
  prsp :=
    if s.ports.prspGo then s.ports.permUnit.map fun l => packLanes p (p.permute l) else none

/-- What was transferred on CMD and DIN is no longer the host's to send (R61). -/
def takeOffered (t : Transfers) (s : State) : State :=
  { s with ports := { s.ports with
      cmdIn := if t.cmd then s.ports.cmdIn.drop 1 else s.ports.cmdIn
      dinIn := if t.din then s.ports.dinIn.drop 1 else s.ports.dinIn } }

/-- One rising edge against the environment in State. -/
def cycle (p : Params) (s : State) : Result :=
  match clockEdge p (envPins p s) s with
  | .next s' => .next (takeOffered (transfers p (envPins p s) s) s')
  | .fault f => .fault f
  | .refused r => .refused r

/-- `k` edges against the environment in State, stopping at the first fault or refusal. -/
def cycles (p : Params) : Nat → State → Result
  | 0, s => .next s
  | k + 1, s =>
    match cycle p s with
    | .next s' => cycles p k s'
    | .fault f => .fault f
    | .refused r => .refused r

end Sys2Proof.Machine
end

