-- ==== Sys2Proof/Machine/Fetch.lean ====
section
/-! DEFINITION. How the machine comes to its next command: commands "arrive on a channel, they are not
fetched from a memory" (R40). A command that is offered whole while the controller is idle is taken
whole and runs as one atomic transition (Level A, R6, R47); in every other situation one rising edge
passes (Level B). Entries 1 and 2. -/

namespace Sys2Proof.Machine

/-- The environment completes every handshake: no reset, and every channel's other side is ready
(R160's supposition, R221). -/
def serving (q : Ports) : Bool :=
  !q.rst && q.rspReady && q.doutReady && q.preqReady && q.prspGo

/-- What the machine does next. -/
inductive Fetched where
  /-- The command, and the state whose host no longer has its header and payload to send. -/
  | command (i : Instr) (s : State)
  /-- A malformed header with its whole payload, both gone from the host (R65, R66). -/
  | malformed (h : Header) (s : State)
  /-- No whole command can be taken: one clock edge passes. -/
  | edge
  deriving DecidableEq, Repr

/-- The host's queues with the header gone and `din` left to send. -/
def taken (din : List Nat) (s : State) : State :=
  { s with ports := { s.ports with cmdIn := s.ports.cmdIn.drop 1, dinIn := din } }

/-- The first `n` words are on DIN: the host has so many and the bus carries each (R60, R66). -/
def presented (p : Params) (n : Nat) (din : List Nat) : Bool :=
  decide (n ≤ din.length) && (din.take n).all (fitsBus p)

/-- The next command: the oldest header on CMD with `paylen(h)` words on DIN (R62, R66, R215), when
the controller is idle (R142, R163) and the environment completes every handshake. -/
def fetch (p : Params) (s : State) : Fetched :=
  if s.ctrl.phase = .idle ∧ serving s.ports = true then
    match s.ports.cmdIn with
    | [] => .edge
    | h :: _ =>
      if !presented p (paylen h) s.ports.dinIn then .edge
      else match decode h s.ports.dinIn with
        | .ok (i, rest) => .command i (taken rest s)
        | .error _ => .malformed h (taken (s.ports.dinIn.drop (paylen h)) s)
  else .edge

/-- One step of the machine at the parameters `p`, the commands run by `run`. -/
def stepBy (run : Instr → State → Result) (p : Params) (s : State) : Result :=
  match fetch p s with
  | .command i s' => run i s'
  | .malformed h s' => execMalformed h s'
  | .edge => cycle p s

/-- The meanings at the parameters `p`; `exec` is this at `Config.hw`. -/
def execWith (p : Params) : Instr → State → Result
  | .start pattern tag => startWith p pattern tag
  | .absorb input => absorbWith p input
  | .squeeze => squeezeWith p
  | .finish => execFinish

/-- A header whose bits are `w` and its payload of zeros, offered before everything else. -/
def offerWord (nbits w : Nat) (q : Ports) : Ports :=
  { q with
    cmdIn := BitVec.ofNat 32 (w % 2 ^ nbits) :: q.cmdIn
    dinIn := List.replicate (paylen (BitVec.ofNat 32 (w % 2 ^ nbits))) 0 ++ q.dinIn }

/-- The environment completing every handshake (see `serving`). -/
def serve (q : Ports) : Ports :=
  { q with rst := false, rspReady := true, doutReady := true, preqReady := true, prspGo := true }

end Sys2Proof.Machine
end

