-- ==== Sys2Proof/Machine/Step.lean ====
section
/-! DEFINITION. One step of the machine. -/

namespace Sys2Proof.Machine

/-- One step: a command offered whole to an idle controller runs whole (Level A); otherwise one clock
edge passes (Level B). -/
def step (s : State) : Host.Outcome State Fault Refusal := stepBy exec Config.hw s

/-- `s` with the header whose bits are `w` and a payload of zeros offered first by the host, to a
controller that is idle and an environment that completes every handshake, so that the very next step
runs it (entry 2). -/
def State.withFetchWord (s : State) (nbits w : Nat) : State :=
  { s with
    ctrl := { s.ctrl with phase := .idle }
    ports := serve (offerWord nbits w s.ports) }

end Sys2Proof.Machine
end

