-- ==== Sys2Proof/Machine/Assembly.lean ====
section
/-! DEFINITION. The written syntax of commands and results (R76), and a transcript as the list of its
commands (R162, R220). -/

namespace Sys2Proof.Machine

/-- A bracketed list of decimal integers (R76). -/
def listText (ws : List Nat) : String := "[" ++ String.intercalate ", " (ws.map toString) ++ "]"

/-- A command as the spec writes it (R76). -/
def instrText : Instr → String
  | .start pattern tag => "START " ++ listText pattern ++ ", " ++ toString tag
  | .absorb input => "ABSORB " ++ listText input
  | .squeeze => "SQUEEZE"
  | .finish => "FINISH"

/-- The names of the outcomes (R71, R170). -/
def statusText : Status → String
  | .ok => "OK"
  | .patternMismatch => "PatternMismatch"
  | .patternExhausted => "PatternExhausted"
  | .badPattern => "BadPattern"
  | .capacity => "Capacity"
  | .badCommand => "BadCommand"

/-- A result as the spec writes it (R76): `out` is the cumulative sequence of a SQUEEZE. -/
def resultText (op : Op) (st : Status) (out : List Nat) : String :=
  match op, st with
  | .squeeze, .ok => "-> OK out=" ++ listText out
  | _, _ => "-> " ++ statusText st

/-- The commands of a transcript one after the other (R50, R163), stopping at a fault or a refusal. -/
def execAll (p : Params) : List Instr → State → Result
  | [], s => .next s
  | i :: is, s =>
    match execWith p i s with
    | .next s' => execAll p is s'
    | .fault f => .fault f
    | .refused r => .refused r

end Sys2Proof.Machine
end

