-- ==== Sys2Proof/Safety.lean ====
section
/-! DEFINITION. What counts as a safe state of the machine: the invariant of R26, extended over the
phases of the controller, and the loops of R101 and R111 as plain recursions over numbers, in the
terms the statements use. -/

namespace Sys2Proof.Machine

/-! ## The invariant -/

/-- R26 clauses (a), (c), (d), (e) and (g), with every element canonical (R4) and both stores in their
canonical form (entry 15). Clause (b) is the type of the cursors; clause (f) is `OutLenSums`. -/
structure ArchInv (p : Params) (a : Arch) : Prop where
  ioCount_le : a.ioCount ≤ a.patternLen
  patternLen_le : a.patternLen ≤ p.patternMax
  outLen_le : a.outLen ≤ p.outMax
  entry_legal : ∀ i, i < a.patternLen → 1 ≤ Store.read a.pat i ∧ Store.read a.pat i ≤ 65535
  entry_zero : ∀ i, a.patternLen ≤ i → Store.read a.pat i = 0
  out_zero : ∀ i, a.outLen ≤ i → Store.read a.out i = 0
  lanes_canonical : p.CanonicalLanes a.lanes
  out_canonical : ∀ i, Store.read a.out i < p.modulus
  pat_wf : Store.wf a.pat = true
  out_wf : Store.wf a.out = true
  cleared : a.patternLen = 0 →
    a.ioCount = 0 ∧ a.absorbPos = 0 ∧ a.squeezePos = 0 ∧ a.outLen = 0 ∧ a.pat = [] ∧ a.out = [] ∧
      ∀ i : Fin WIDTH, CAPACITY ≤ i.val → a.lanes[i] = 0

/-- R26 clause (f): `used`, in order, are indices below `io_count`, and `out_len` is the sum of their
entries. Which of the consumed entries a SQUEEZE consumed is no state of the engine, so they are
named. -/
def OutLenSums (a : Arch) (used : List Nat) : Prop :=
  used.Sublist (List.range a.ioCount) ∧ a.outLen = (used.map (Store.read a.pat)).sum

/-- START between START_CLR and START_TAG (R143, R144): the cleared state but for the entries written
so far, `n` of them. -/
structure Loading (p : Params) (a : Arch) (c : Ctrl) : Prop where
  cleared : a = { Arch.reset with pat := a.pat }
  pend : c.pend = .ok
  curOp : c.curOp = .start
  fits : c.curLen.toNat ≤ p.patternMax
  rem : c.rem + c.wrIdx = c.curLen.toNat + 1
  entry_legal : ∀ i, i < c.wrIdx → 1 ≤ Store.read a.pat i ∧ Store.read a.pat i ≤ 65535
  entry_zero : ∀ i, c.wrIdx ≤ i → Store.read a.pat i = 0
  pat_wf : Store.wf a.pat = true

/-- ABSORB with elements still to come (R142, R146): its entry is the one at `io_count`. -/
structure Absorbing (a : Arch) (c : Ctrl) : Prop where
  pend : c.pend = .ok
  curOp : c.curOp = .absorb
  live : a.ioCount < a.patternLen
  entry : Store.read a.pat a.ioCount = c.curLen.toNat
  rem_pos : 1 ≤ c.rem
  rem_le : c.rem ≤ c.curLen.toNat

/-- SQUEEZE with elements still to produce, which OUT has room for (R142, R147). -/
structure Squeezing (p : Params) (a : Arch) (c : Ctrl) : Prop where
  pend : c.pend = .ok
  curOp : c.curOp = .squeeze
  live : a.ioCount < a.patternLen
  rem_pos : 1 ≤ c.rem
  rem_le : c.rem ≤ Store.read a.pat a.ioCount
  room : a.outLen + c.rem ≤ p.outMax

/-- What holds in each phase (R140 to R154). -/
def PhaseInv (p : Params) (a : Arch) (c : Ctrl) : Prop :=
  match c.phase with
  | .idle => ArchInv p a
  | .startClr =>
    ArchInv p a ∧ c.curOp = .start ∧ c.pend = .ok ∧ c.rem = c.curLen.toNat + 1
  | .startPat => Loading p a c ∧ c.wrIdx < c.curLen.toNat
  | .startTag => Loading p a c ∧ c.wrIdx = c.curLen.toNat
  | .absElem => ArchInv p a ∧ Absorbing a c
  | .sqzElem => ArchInv p a ∧ Squeezing p a c
  | .permReq =>
    ArchInv p a ∧
      (Absorbing a c ∧ a.absorbPos = sentinel ∨ Squeezing p a c ∧ a.squeezePos = sentinel)
  | .permWait =>
    ArchInv p a ∧
      (Absorbing a c ∧ a.absorbPos = sentinel ∨ Squeezing p a c ∧ a.squeezePos = sentinel)
  | .finClr => ArchInv p a ∧ c.curOp = .finish ∧ c.pend = .ok ∧ c.rem = 0
  | .drain => ArchInv p a ∧ c.pend ≠ .ok ∧ a.fault ≠ .ok
  | .resp =>
    ArchInv p a ∧ c.rem = 0 ∧ (c.pend ≠ .ok → a.fault ≠ .ok) ∧
      (c.curOp = .squeeze → c.pend = .ok → 1 ≤ a.outLen)
  | .dout =>
    ArchInv p a ∧ c.rem = 0 ∧ c.curOp = .squeeze ∧ c.pend = .ok ∧ c.doutIdx < a.outLen

/-- The invariant of the machine: R26 in IDLE and what each phase adds; an outstanding request exactly
in PERM_WAIT, equal to the state register (R24, R127); the hidden counters within the values their
registers hold (R107, R141). -/
structure Inv (p : Params) (s : State) : Prop where
  phase : PhaseInv p s.arch s.ctrl
  permUnit : s.ports.permUnit = if s.ctrl.phase = .permWait then some s.arch.lanes else none
  rem_le : s.ctrl.rem ≤ 65536
  wrIdx_le : s.ctrl.wrIdx ≤ p.patternMax
  doutIdx_le : s.ctrl.doutIdx ≤ p.outMax

/-! ## The element loops over plain numbers -/

/-- R101 on a cursor held as a number: the lanes, `absorb_pos`, and the arguments of `permute` so
far. -/
def absorbRef (p : Params) : List Nat → Lanes × Nat × List Lanes → Lanes × Nat × List Lanes
  | [], r => r
  | x :: xs, (l, pos, asked) =>
    if pos = RATE then
      let m := p.permute l
      absorbRef p xs (m.set CAPACITY ((m[CAPACITY] + x) % p.modulus), 1, asked ++ [l])
    else
      absorbRef p xs
        (l.setIfInBounds (pos + CAPACITY) ((l.toList.getD (pos + CAPACITY) 0 + x) % p.modulus), pos + 1, asked)

/-- The quantities R111 works on. -/
structure SqueezeRef where
  lanes : Lanes
  squeezePos : Nat
  absorbPos : Nat
  produced : List Nat
  asked : List Lanes

/-- R111, `n` times, on cursors held as numbers: the elements produced and the arguments of `permute`
in order. -/
def squeezeRef (p : Params) : Nat → SqueezeRef → SqueezeRef
  | 0, r => r
  | n + 1, r =>
    if r.squeezePos = RATE then
      let m := p.permute r.lanes
      squeezeRef p n
        { lanes := m, squeezePos := 1, absorbPos := 0
          produced := r.produced ++ [m[CAPACITY]], asked := r.asked ++ [r.lanes] }
    else
      squeezeRef p n
        { r with
          squeezePos := r.squeezePos + 1
          produced := r.produced ++ [r.lanes.toList.getD (r.squeezePos + CAPACITY) 0] }

/-! ## Terms of the statements -/

/-- The host's and the unit's side of the ports is as before: what is still to be sent, the request
held, and the levels driven. -/
def InputsKept (q q' : Ports) : Prop :=
  q'.cmdIn = q.cmdIn ∧ q'.dinIn = q.dinIn ∧ q'.permUnit = q.permUnit ∧ q'.rst = q.rst ∧
    q'.rspReady = q.rspReady ∧ q'.doutReady = q.doutReady ∧ q'.preqReady = q.preqReady ∧
    q'.prspGo = q.prspGo

/-- The controller is idle, the environment completes every handshake, and the host offers the header
`h` with all of its payload, in words that the bus carries (R60, R66, R160). -/
def Offered (p : Params) (h : Header) (s : State) : Prop :=
  s.ctrl.phase = .idle ∧ serving s.ports = true ∧ s.ports.cmdIn.head? = some h ∧
    paylen h ≤ s.ports.dinIn.length ∧ ∀ w ∈ s.ports.dinIn.take (paylen h), w < 2 ^ fieldBits p

/-- The state with another value in `fault` (R22). -/
def withFault (f : Status) (s : State) : State := { s with arch := { s.arch with fault := f } }

/-- The state with other hidden registers (R24). -/
def withCtrl (c : Ctrl) (s : State) : State := { s with ctrl := c }

/-- The state with other lanes (R14). -/
def withLanes (l : Lanes) (s : State) : State := { s with arch := { s.arch with lanes := l } }

/-- Pins on which the environment offers nothing and accepts nothing (R161, R214). -/
def silentPins (p : Params) : Pins p where
  rst := false
  cmd := none
  din := none
  rspReady := false
  doutReady := false
  preqReady := false
  prsp := none

end Sys2Proof.Machine
end

