-- ==== Sys2Proof/Certificates/Slice0/Obligations.lean ====
section
/-! DEFINITION. The statements for the provers. Each docstring names the rule of spec/ it formalises.
`Config.hw` is this hardware: its modulus `P`, `permute`, PATTERN_MAX and OUT_MAX have no value a proof
can see; `exec` runs the commands at it, `execWith p` at any `p`. A statement that needs several pattern
entries, or a field with words that are not canonical, is made at every `Params` in the ranges of the
spec, `Config.hw` among them. -/

open Sys2Proof Sys2Proof.Machine

/-! ## Encoding -/

/-- The worked encodings of R77 and headers of the decoder vectors of spec/95_test_vectors.md, the
largest START and the word of ones among them, bit by bit; and `paylen` of each of the twelve. The names
of the rejections are the decoder's own; `payloadShort` is no rejection of the block, which waits for the
missing words (R214, U17; entry 22). -/
def Obligations.WorkedHeadersDecode : Prop :=
  decode 0x00000200#32 [5, 4, 14699256703807541932168660170536] =
      .ok (.start [5, 4] 14699256703807541932168660170536, []) ∧
  decode 0x00000000#32 [7] = .ok (.start [] 7, []) ∧
  decode 0x00000501#32 [1, 2, 3, 4, 5] = .ok (.absorb [1, 2, 3, 4, 5], []) ∧
  decode 0x00000001#32 [9] = .ok (.absorb [], [9]) ∧
  decode 0x00000002#32 [9] = .ok (.squeeze, [9]) ∧
  decode 0x00000003#32 [] = .ok (.finish, []) ∧
  decode 0x00000102#32 [] = .error .lenNotZero ∧
  decode 0x00000007#32 [] = .error .reservedLow ∧
  decode 0x01000201#32 [1, 2] = .error .reservedHigh ∧
  decode 0x00000204#32 [1, 2, 3] = .error .reservedLow ∧
  decode 0x00000501#32 [1, 2, 3, 4] = .error .payloadShort ∧
  (hdrWellFormed 0x00FFFF00#32 = true ∧ hdrOp 0x00FFFF00#32 = .start ∧
    hdrLen 0x00FFFF00#32 = 65535#16 ∧
    decode 0x00FFFF00#32 [] = .error .payloadShort) ∧
  (hdrWellFormed 0xFFFFFFFF#32 = false ∧ hdrOp 0xFFFFFFFF#32 = .finish ∧
    decode 0xFFFFFFFF#32 [] = .error .reservedLow) ∧
  [0x00000000#32, 0x00000200#32, 0x00FFFF00#32, 0x00000501#32, 0x00000001#32, 0x00000002#32,
      0x00000003#32, 0x00000102#32, 0x00000007#32, 0x01000201#32, 0x00000204#32,
      0xFFFFFFFF#32].map paylen = [1, 3, 65536, 5, 0, 0, 0, 0, 0, 2, 3, 0]

/-- Decoding a well-formed command's encoding gives the command back, with every operand at every
value, and leaves the words after its payload (R62, R66, R68, R69). -/
def Obligations.DecodeEncodeAgree : Prop :=
  ∀ (i : Instr) (rest : List Nat), i.wellFormed = true →
    decode (encode i).1 ((encode i).2 ++ rest) = .ok (i, rest)

/-- What decodes is the encoding of what it decodes to: no two words stand for one command, and a
decoded command is well formed (R62, R66). -/
def Obligations.EncodeDecodeAgree : Prop :=
  ∀ (h : Header) (din : List Nat) (i : Instr) (rest : List Nat), decode h din = .ok (i, rest) →
    i.wellFormed = true ∧ encode i = (h, din.take (paylen h)) ∧ rest = din.drop (paylen h) ∧
      paylen h ≤ din.length

/-- R74: the four rows, written out with their masks, and the malformed rest; with R65's bit
conditions, and the decoder rejecting exactly the malformed headers as malformed. That a header in a row
whose payload is not all there is answered `payloadShort`, and a malformed one by another name, is the
model's choice (entry 22): the block waits for the missing words (R214). -/
def Obligations.OpcodeRowsDecideTheHeader : Prop :=
  ∀ (h : Header),
    (hdrWellFormed h = true ↔
      h &&& 0xFF0000FF#32 = 0x00000000#32 ∨ h &&& 0xFF0000FF#32 = 0x00000001#32 ∨
        h = 0x00000002#32 ∨ h = 0x00000003#32) ∧
    (hdrWellFormed h = true ↔
      h.toNat / 4 % 64 = 0 ∧ h.toNat / 2 ^ 24 = 0 ∧
        (h.toNat % 4 = 0 ∨ h.toNat % 4 = 1 ∨ h.toNat / 256 % 65536 = 0)) ∧
    (h &&& 0xFF0000FF#32 = 0x00000000#32 → hdrOp h = .start) ∧
    (h &&& 0xFF0000FF#32 = 0x00000001#32 → hdrOp h = .absorb) ∧
    (h = 0x00000002#32 → hdrOp h = .squeeze) ∧
    (h = 0x00000003#32 → hdrOp h = .finish) ∧
    ∀ din : List Nat,
      (hdrWellFormed h = false → ∃ e, decode h din = .error e ∧ e ≠ .payloadShort) ∧
      (hdrWellFormed h = true →
        (din.length < paylen h ∧ decode h din = .error .payloadShort) ∨
          (∃ i rest, decode h din = .ok (i, rest) ∧ i.op = hdrOp h))

/-- R66: `paylen` by the header's bits; and every command taken whole, well formed or not, successful
or not, leaves exactly the header and `paylen(h)` words consumed when it answers. That a step takes the
command whole is the model's choice (entry 1). -/
def Obligations.EveryCommandConsumesItsPayload : Prop :=
  (∀ h : Header,
    paylen h =
      if h.toNat % 4 = 0 then h.toNat / 256 % 65536 + 1
      else if h.toNat % 4 = 1 then h.toNat / 256 % 65536 else 0) ∧
  ∀ (h : Header) (s t : State), Offered Config.hw h s → step s = .next t →
    t.ctrl.phase = .idle ∧ t.ports.cmdIn = s.ports.cmdIn.drop 1 ∧
      t.ports.dinIn = s.ports.dinIn.drop (paylen h)

/-- R126: the packing of the lanes on PREQ and PRSP, words of WIDTH * FIELD_BITS bits: lane `i` is the
field of FIELD_BITS bits at bit `i * FIELD_BITS`, and unpacking reads exactly those fields. -/
def Obligations.LanePackingRoundTrip : Prop :=
  ∀ (p : Params) (l : Lanes), p.Valid → p.CanonicalLanes l →
    (packLanes p l).toNat < 2 ^ (4 * fieldBits p) ∧
    (∀ i : Fin WIDTH, (packLanes p l).toNat / 2 ^ (i.val * fieldBits p) % 2 ^ fieldBits p = l[i]) ∧
    unpackLanes p (packLanes p l) = l ∧
    ∀ (w : BitVec (4 * fieldBits p)) (i : Fin WIDTH),
      (unpackLanes p w)[i] = w.toNat / 2 ^ (i.val * fieldBits p) % 2 ^ fieldBits p

/-- The bit layout of the response word (R70): `status` at bit 0, `count` at bit 8, `op_echo` at
bit 24, nothing else. -/
def Obligations.ResponseWordLayout : Prop :=
  ∀ (op : Op) (st : Status) (n : Nat), n < 65536 →
    (rspWord op st n).toNat = st.code.toNat + n * 2 ^ 8 + op.code.toNat * 2 ^ 24

/-! ## START -/

/-- R90: START completes on every legal pattern and canonical tag, from every state, with the
architectural state and the response the rule gives; the permutation is not invoked. That the hidden
register `dout_idx` is as before is the model's reading of R142 to R154 (entry 13). -/
def Obligations.StartLoadsPatternAndTag : Prop :=
  ∀ (pattern : List Nat) (tag : Nat) (s : State), tag < Config.hw.modulus →
    pattern.length ≤ Config.hw.patternMax → (∀ v ∈ pattern, 1 ≤ v ∧ v < 65536) →
    ∃ t, exec (.start pattern tag) s = .next t ∧
      t.arch.lanes = #v[tag, 0, 0, 0] ∧
      (∀ i, Store.read t.arch.pat i = pattern.getD i 0) ∧
      t.arch.patternLen = pattern.length ∧ t.arch.ioCount = 0 ∧
      t.arch.absorbPos = 0 ∧ t.arch.squeezePos = 0 ∧
      t.arch.out = [] ∧ t.arch.outLen = 0 ∧ t.arch.fault = .ok ∧
      t.ctrl.phase = .idle ∧ t.ctrl.doutIdx = s.ctrl.doutIdx ∧
      t.ports.rspOut = s.ports.rspOut ++ [0x00000000#32] ∧
      t.ports.doutOut = s.ports.doutOut ∧ t.ports.preqOut = s.ports.preqOut ∧
      InputsKept s.ports t.ports

/-- R92: a START that raises Capacity or BadPattern completes with the cleared state, every field 0,
and `fault` the error's code; Capacity is tested first. -/
def Obligations.FailedStartLeavesClearedState : Prop :=
  ∀ (pattern : List Nat) (tag : Nat) (s : State), tag < Config.hw.modulus →
    (Config.hw.patternMax < pattern.length ∨ ∃ v ∈ pattern, v = 0 ∨ 65536 ≤ v) →
    ∃ t, exec (.start pattern tag) s = .next t ∧
      t.arch.lanes = #v[0, 0, 0, 0] ∧ t.arch.pat = [] ∧ t.arch.patternLen = 0 ∧
      t.arch.ioCount = 0 ∧ t.arch.absorbPos = 0 ∧ t.arch.squeezePos = 0 ∧
      t.arch.out = [] ∧ t.arch.outLen = 0 ∧
      t.arch.fault = (if Config.hw.patternMax < pattern.length then .capacity else .badPattern) ∧
      t.ports.rspOut = s.ports.rspOut ++
        [if Config.hw.patternMax < pattern.length then 0x00000004#32 else 0x00000003#32] ∧
      t.ports.doutOut = s.ports.doutOut ∧ t.ports.preqOut = s.ports.preqOut ∧
      InputsKept s.ports t.ports

/-- R93: START is accepted in every state, and nothing of an earlier transcript survives it: from any
two states it completes with the same architectural state. -/
def Obligations.StartAcceptedInEveryState : Prop :=
  ∀ (pattern : List Nat) (tag : Nat) (s s' : State), tag < Config.hw.modulus →
    ∃ t t', exec (.start pattern tag) s = .next t ∧ exec (.start pattern tag) s' = .next t' ∧
      t.arch = t'.arch

/-! ## ABSORB -/

/-- R101: one element. Below RATE the field sum goes into the cursor's rate lane and nothing is
permuted; at RATE the whole state is permuted first and the sum goes into rate lane 0. -/
def Obligations.AbsorbElementRule : Prop :=
  ∀ (x : Nat) (s : State),
    (s.arch.absorbPos.val < 3 →
      (∀ j : Fin WIDTH, (absorbElem Config.hw x s).arch.lanes[j] =
        if j.val = s.arch.absorbPos.val + 1 then (s.arch.lanes[j] + x) % Config.hw.modulus
        else s.arch.lanes[j]) ∧
      (absorbElem Config.hw x s).arch.absorbPos.val = s.arch.absorbPos.val + 1 ∧
      (absorbElem Config.hw x s).ports = s.ports) ∧
    (s.arch.absorbPos.val = 3 →
      (∀ j : Fin WIDTH, (absorbElem Config.hw x s).arch.lanes[j] =
        if j.val = 1 then ((Config.hw.permute s.arch.lanes)[j] + x) % Config.hw.modulus
        else (Config.hw.permute s.arch.lanes)[j]) ∧
      (absorbElem Config.hw x s).arch.absorbPos.val = 1 ∧
      (absorbElem Config.hw x s).ports =
        { s.ports with preqOut := s.ports.preqOut ++ [s.arch.lanes] }) ∧
    (absorbElem Config.hw x s).arch =
      { s.arch with
        lanes := (absorbElem Config.hw x s).arch.lanes
        absorbPos := (absorbElem Config.hw x s).arch.absorbPos } ∧
    (absorbElem Config.hw x s).ctrl = s.ctrl

/-- R100: ABSORB completes wherever its two checks pass, with the lanes, the cursor and the requests to
the permutation that R101's loop gives on plain numbers (`absorbRef`), `io_count` one on, the sentinel
set, and the rest of the architectural state as before. That the hidden registers `wr_idx` and `dout_idx`
are as before is the model's reading of R142 to R154 (entry 13). -/
def Obligations.AbsorbRunsTheElementLoop : Prop :=
  ∀ (input : List Nat) (s : State), (∀ x ∈ input, x < Config.hw.modulus) →
    s.arch.ioCount ≠ s.arch.patternLen → s.arch.ioCount < Config.hw.patternMax →
    Store.read s.arch.pat s.arch.ioCount = input.length →
    ∃ t, exec (.absorb input) s = .next t ∧
      t.arch.lanes = (absorbRef Config.hw input (s.arch.lanes, s.arch.absorbPos.val, [])).1 ∧
      t.arch.absorbPos.val = (absorbRef Config.hw input (s.arch.lanes, s.arch.absorbPos.val, [])).2.1 ∧
      t.ports.preqOut = s.ports.preqOut ++
        (absorbRef Config.hw input (s.arch.lanes, s.arch.absorbPos.val, [])).2.2 ∧
      t.arch.ioCount = s.arch.ioCount + 1 ∧ t.arch.squeezePos.val = 3 ∧
      t.arch.pat = s.arch.pat ∧ t.arch.patternLen = s.arch.patternLen ∧
      t.arch.out = s.arch.out ∧ t.arch.outLen = s.arch.outLen ∧ t.arch.fault = s.arch.fault ∧
      t.ctrl.phase = .idle ∧ t.ctrl.wrIdx = s.ctrl.wrIdx ∧ t.ctrl.doutIdx = s.ctrl.doutIdx ∧
      t.ports.rspOut = s.ports.rspOut ++ [0x01000000#32] ∧
      t.ports.doutOut = s.ports.doutOut ∧ InputsKept s.ports t.ports

/-- R105: the number of permutations of an ABSORB, the final cursor, and the elements they stand
before. -/
def Obligations.AbsorbPermutationCount : Prop :=
  ∀ (input : List Nat) (s t : State), input ≠ [] →
    exec (.absorb input) s = .next t → t.ctrl.pend = .ok →
    t.ports.preqOut.length =
      s.ports.preqOut.length + (s.arch.absorbPos.val + input.length - 1) / 3 ∧
    t.arch.absorbPos.val = (s.arch.absorbPos.val + input.length - 1) % 3 + 1 ∧
    ∀ k, k < input.length →
      (absorbElems Config.hw (input.take (k + 1)) s).ports.preqOut.length =
        (absorbElems Config.hw (input.take k) s).ports.preqOut.length +
          if (s.arch.absorbPos.val + k) % 3 = 0 ∧ 3 ≤ s.arch.absorbPos.val + k then 1 else 0

/-- R104: a capacity lane changes during an ABSORB only through `permute`: lane 0 is what it was if
nothing was permuted, and otherwise lane 0 of the last answer. -/
def Obligations.CapacityLaneOnlyPermuted : Prop :=
  ∀ (input : List Nat) (s t : State), exec (.absorb input) s = .next t →
    ∃ asked : List Lanes, t.ports.preqOut = s.ports.preqOut ++ asked ∧
      t.arch.lanes[0] =
        match asked.getLast? with
        | none => s.arch.lanes[0]
        | some l => (Config.hw.permute l)[0]

/-- The errors of ABSORB (R102, R178): on an exhausted pattern PatternExhausted, whatever its length;
otherwise a length that is not the entry gives PatternMismatch; only `fault` changes. -/
def Obligations.AbsorbErrorsChangeOnlyFault : Prop :=
  ∀ (input : List Nat) (s : State), (∀ x ∈ input, x < Config.hw.modulus) →
    (s.arch.ioCount = s.arch.patternLen →
      ∃ t, exec (.absorb input) s = .next t ∧
        t.arch = { s.arch with fault := if s.arch.fault = .ok then .patternExhausted else s.arch.fault } ∧
        t.ports = { s.ports with rspOut := s.ports.rspOut ++ [0x01000002#32] }) ∧
    (s.arch.ioCount ≠ s.arch.patternLen → s.arch.ioCount < Config.hw.patternMax →
      Store.read s.arch.pat s.arch.ioCount ≠ input.length →
      ∃ t, exec (.absorb input) s = .next t ∧
        t.arch = { s.arch with fault := if s.arch.fault = .ok then .patternMismatch else s.arch.fault } ∧
        t.ports = { s.ports with rspOut := s.ports.rspOut ++ [0x01000001#32] })

/-! ## SQUEEZE -/

/-- R111: one element. Below RATE the cursor's rate lane is copied to OUT at `out_len`; at RATE the
whole state is permuted first, both cursors are reset, and rate lane 0 is copied. The lane read keeps
its value. -/
def Obligations.SqueezeElementRule : Prop :=
  ∀ (s : State), Store.wf s.arch.out = true → s.arch.outLen < Config.hw.outMax →
    ∃ t, squeezeElem Config.hw s = .ok t ∧
      (s.arch.squeezePos.val < 3 →
        t.arch.lanes = s.arch.lanes ∧ t.arch.absorbPos = s.arch.absorbPos ∧
        t.arch.squeezePos.val = s.arch.squeezePos.val + 1 ∧ t.ports = s.ports ∧
        ∀ i, Store.read t.arch.out i =
          if i = s.arch.outLen then s.arch.lanes.toList.getD (s.arch.squeezePos.val + 1) 0
          else Store.read s.arch.out i) ∧
      (s.arch.squeezePos.val = 3 →
        t.arch.lanes = Config.hw.permute s.arch.lanes ∧ t.arch.absorbPos = 0 ∧
        t.arch.squeezePos.val = 1 ∧
        t.ports = { s.ports with preqOut := s.ports.preqOut ++ [s.arch.lanes] } ∧
        ∀ i, Store.read t.arch.out i =
          if i = s.arch.outLen then (Config.hw.permute s.arch.lanes)[1]
          else Store.read s.arch.out i) ∧
      t.arch.outLen = s.arch.outLen + 1 ∧
      t.arch.pat = s.arch.pat ∧ t.arch.patternLen = s.arch.patternLen ∧
      t.arch.ioCount = s.arch.ioCount ∧ t.arch.fault = s.arch.fault ∧ t.ctrl = s.ctrl

/-- R110: SQUEEZE completes wherever its two checks pass, with the lanes, cursors, elements and
requests that R111's loop gives on plain numbers (`squeezeRef`), the elements appended at `out_len`
(computed as the meaning computes it), `io_count` one on, the whole accumulator returned, and the rest
of the architectural state as before. That the hidden register `wr_idx` is as before is the model's
reading of R142 to R154 (entry 13). -/
def Obligations.SqueezeRunsTheElementLoop : Prop :=
  ∀ (s : State) (n : Nat), s.arch.ioCount ≠ s.arch.patternLen →
    s.arch.ioCount < Config.hw.patternMax → Store.read s.arch.pat s.arch.ioCount = n →
    s.arch.outLen + n ≤ Config.hw.outMax → Store.wf s.arch.out = true →
    ∃ t, exec .squeeze s = .next t ∧
      t.arch.lanes = (squeezeRef Config.hw n
        ⟨s.arch.lanes, s.arch.squeezePos.val, s.arch.absorbPos.val, [], []⟩).lanes ∧
      t.arch.squeezePos.val = (squeezeRef Config.hw n
        ⟨s.arch.lanes, s.arch.squeezePos.val, s.arch.absorbPos.val, [], []⟩).squeezePos ∧
      t.arch.absorbPos.val = (squeezeRef Config.hw n
        ⟨s.arch.lanes, s.arch.squeezePos.val, s.arch.absorbPos.val, [], []⟩).absorbPos ∧
      t.ports.preqOut = s.ports.preqOut ++ (squeezeRef Config.hw n
        ⟨s.arch.lanes, s.arch.squeezePos.val, s.arch.absorbPos.val, [], []⟩).asked ∧
      (∀ i, Store.read t.arch.out i =
        if s.arch.outLen ≤ i ∧ i < s.arch.outLen + n then
          (squeezeRef Config.hw n
            ⟨s.arch.lanes, s.arch.squeezePos.val, s.arch.absorbPos.val, [], []⟩).produced.getD
              (i - s.arch.outLen) 0
        else Store.read s.arch.out i) ∧
      t.arch.outLen = s.arch.outLen + n ∧ t.arch.ioCount = s.arch.ioCount + 1 ∧
      t.arch.pat = s.arch.pat ∧ t.arch.patternLen = s.arch.patternLen ∧
      t.arch.fault = s.arch.fault ∧ t.ctrl.phase = .idle ∧ t.ctrl.wrIdx = s.ctrl.wrIdx ∧
      t.ports.rspOut = s.ports.rspOut ++ [BitVec.ofNat 32 (0x02000000 + 256 * t.arch.outLen)] ∧
      t.ports.doutOut = s.ports.doutOut ++
        (List.range t.arch.outLen).map
          (fun i => (Store.read t.arch.out i, decide (i + 1 = t.arch.outLen))) ∧
      InputsKept s.ports t.ports

/-- R114: the number of permutations of a SQUEEZE of `n` elements, the final cursors, and the elements
they stand before. -/
def Obligations.SqueezePermutationCount : Prop :=
  ∀ (s t : State) (n : Nat), 1 ≤ n → Store.read s.arch.pat s.arch.ioCount = n →
    exec .squeeze s = .next t → t.ctrl.pend = .ok →
    t.ports.preqOut.length =
      s.ports.preqOut.length + (s.arch.squeezePos.val + n - 1) / 3 ∧
    t.arch.squeezePos.val = (s.arch.squeezePos.val + n - 1) % 3 + 1 ∧
    t.arch.absorbPos =
      (if (s.arch.squeezePos.val + n - 1) / 3 = 0 then s.arch.absorbPos else 0) ∧
    ∀ k, k < n → ∃ u v, squeezeElems Config.hw k s = .ok u ∧
      squeezeElems Config.hw (k + 1) s = .ok v ∧
      v.ports.preqOut.length = u.ports.preqOut.length +
        if (s.arch.squeezePos.val + k) % 3 = 0 ∧ 3 ≤ s.arch.squeezePos.val + k then 1 else 0

/-- The errors of SQUEEZE (R112, R178): PatternExhausted first, then Capacity by the exact sum; only
`fault` changes, nothing is permuted and nothing is streamed; filling OUT exactly is no error. -/
def Obligations.SqueezeErrorsChangeOnlyFault : Prop :=
  ∀ (s : State),
    (s.arch.ioCount = s.arch.patternLen →
      ∃ t, exec .squeeze s = .next t ∧
        t.arch = { s.arch with fault := if s.arch.fault = .ok then .patternExhausted else s.arch.fault } ∧
        t.ports = { s.ports with rspOut := s.ports.rspOut ++ [0x02000002#32] }) ∧
    (s.arch.ioCount ≠ s.arch.patternLen → s.arch.ioCount < Config.hw.patternMax →
      Config.hw.outMax < s.arch.outLen + Store.read s.arch.pat s.arch.ioCount →
      ∃ t, exec .squeeze s = .next t ∧
        t.arch = { s.arch with fault := if s.arch.fault = .ok then .capacity else s.arch.fault } ∧
        t.ports = { s.ports with rspOut := s.ports.rspOut ++ [0x02000004#32] }) ∧
    (s.arch.ioCount ≠ s.arch.patternLen → s.arch.ioCount < Config.hw.patternMax →
      s.arch.outLen + Store.read s.arch.pat s.arch.ioCount = Config.hw.outMax →
      ∃ t, exec .squeeze s = .next t ∧ t.ctrl.pend = .ok ∧ t.arch.outLen = Config.hw.outMax)

/-- The result is cumulative (R72, R113): what a successful SQUEEZE streams is everything squeezed
before, as it was, then its own `n` elements; `dout_last` stands on the final word alone. -/
def Obligations.SqueezeOutputIsCumulative : Prop :=
  ∀ (s t : State), Store.wf s.arch.out = true → exec .squeeze s = .next t → t.ctrl.pend = .ok →
    ∃ stream : List (Nat × Bool), t.ports.doutOut = s.ports.doutOut ++ stream ∧
      stream.length = s.arch.outLen + Store.read s.arch.pat s.arch.ioCount ∧
      (∀ i, i < s.arch.outLen → (stream.map Prod.fst)[i]? = some (Store.read s.arch.out i)) ∧
      (∀ i, i < stream.length → (stream.map Prod.fst)[i]? = some (Store.read t.arch.out i)) ∧
      (∀ i, i < stream.length → (stream.map Prod.snd)[i]? = some (decide (i + 1 = stream.length)))

/-- R115: a SQUEEZE right after START reads the unpermuted rate lanes, zeros that do not depend on the
tag, for up to RATE elements; only the element after those triggers the first permutation, of
`[tag, 0, 0, 0]`. -/
def Obligations.SqueezeFirstReadsZeros : Prop :=
  ∀ (p : Params) (n tag : Nat) (more : List Nat) (s t : State), p.Valid → 1 ≤ n → n ≤ p.outMax →
    execWith p (.start (n :: more) tag) s = .next t → t.ctrl.pend = .ok →
    ∃ u, execWith p .squeeze t = .next u ∧ u.arch.outLen = n ∧
      (∀ i, i < n → i < 3 → Store.read u.arch.out i = 0) ∧
      u.ports.preqOut.length = t.ports.preqOut.length + (n - 1) / 3 ∧
      (4 ≤ n →
        u.ports.preqOut[t.ports.preqOut.length]? = some #v[tag, 0, 0, 0] ∧
        Store.read u.arch.out 3 = (p.permute #v[tag, 0, 0, 0])[1])

/-- R51: absorbed data passes one permutation before it is squeezed. Every successful ABSORB leaves
`squeeze_pos` at RATE; and the next SQUEEZE that succeeds with an element to produce permutes the absorbed
state before its first element, which is rate lane 0 of the answer. -/
def Obligations.AbsorbedDataIsPermutedBeforeOutput : Prop :=
  ∀ (p : Params) (input : List Nat) (s t : State), p.Valid →
    execWith p (.absorb input) s = .next t → t.ctrl.pend = .ok →
    t.arch.squeezePos.val = 3 ∧
      (Store.wf s.arch.out = true → 1 ≤ Store.read t.arch.pat t.arch.ioCount →
        ∀ u : State, execWith p .squeeze t = .next u → u.ctrl.pend = .ok →
          u.ports.preqOut[t.ports.preqOut.length]? = some t.arch.lanes ∧
          Store.read u.arch.out t.arch.outLen = (p.permute t.arch.lanes)[1])

/-- An ABSORB after a SQUEEZE that permuted adds into the permuted state from rate lane 0 on without a
further permutation (R106 clause (b), spec/90_conflicts.md C4). -/
def Obligations.AbsorbAfterSqueezeDoesNotPermuteAgain : Prop :=
  ∀ (p : Params) (input : List Nat) (s t u : State), p.Valid → input.length ≤ 3 →
    execWith p .squeeze s = .next t → t.ports.preqOut ≠ s.ports.preqOut →
    execWith p (.absorb input) t = .next u →
    u.ports.preqOut = t.ports.preqOut ∧ t.arch.absorbPos = 0 ∧
      (u.ctrl.pend = .ok → ∀ j : Fin WIDTH, u.arch.lanes[j] =
        if h : 1 ≤ j.val ∧ j.val ≤ input.length then
          (t.arch.lanes[j] + input[j.val - 1]'(by omega)) % p.modulus
        else t.arch.lanes[j])

/-! ## FINISH -/

/-- R120: FINISH completes from every state; every lane, both stores, every cursor and length become 0,
`fault` keeps its value, nothing is permuted, and the response is 0x03000000. That the hidden registers
`wr_idx` and `dout_idx` are as before is the model's reading of R142 to R154 (entry 13). -/
def Obligations.FinishWipesTheEngine : Prop :=
  ∀ (s : State), ∃ t, exec .finish s = .next t ∧
    t.arch.lanes = #v[0, 0, 0, 0] ∧ t.arch.pat = [] ∧ t.arch.patternLen = 0 ∧
    t.arch.ioCount = 0 ∧ t.arch.absorbPos = 0 ∧ t.arch.squeezePos = 0 ∧
    t.arch.out = [] ∧ t.arch.outLen = 0 ∧ t.arch.fault = s.arch.fault ∧
    t.ctrl.phase = .idle ∧ t.ctrl.wrIdx = s.ctrl.wrIdx ∧ t.ctrl.doutIdx = s.ctrl.doutIdx ∧
    t.ports.rspOut = s.ports.rspOut ++ [0x03000000#32] ∧
    t.ports.doutOut = s.ports.doutOut ∧ t.ports.preqOut = s.ports.preqOut ∧
    InputsKept s.ports t.ports

/-- R122: after FINISH every ABSORB and every SQUEEZE completes with PatternExhausted and changes
nothing but `fault`; the finished state is the reset state but for `fault`; and a second FINISH leaves
it so (R121). -/
def Obligations.FinishedEngineIsExhausted : Prop :=
  ∀ (s t : State), exec .finish s = .next t →
    t.arch = { State.reset.arch with fault := s.arch.fault } ∧
    (∃ u, exec .finish t = .next u ∧ u.arch = t.arch) ∧
    (∃ u, exec .squeeze t = .next u ∧ u.ctrl.pend = .patternExhausted ∧
      u.arch = { t.arch with fault := u.arch.fault }) ∧
    ∀ input : List Nat, (∀ x ∈ input, x < Config.hw.modulus) →
      ∃ u, exec (.absorb input) t = .next u ∧ u.ctrl.pend = .patternExhausted ∧
        u.arch = { t.arch with fault := u.arch.fault }

/-! ## Frames -/

/-- What each command leaves unchanged when it answers a next state, successful or not. ABSORB: PAT,
OUT and their lengths. SQUEEZE: PAT and its length, and every element of OUT outside the indices
`out_len` up to the new `out_len`. START and FINISH: nothing is permuted or streamed. All four: the
host's and the unit's side of the ports. That the hidden indices which the command's micro-steps do not
write are as before is the model's reading of R142 to R154 (entry 13). -/
def Obligations.CommandFrames : Prop :=
  ∀ (s t : State),
    (∀ input, exec (.absorb input) s = .next t →
      t.arch.pat = s.arch.pat ∧ t.arch.patternLen = s.arch.patternLen ∧
      t.arch.out = s.arch.out ∧ t.arch.outLen = s.arch.outLen ∧
      t.ctrl.wrIdx = s.ctrl.wrIdx ∧ t.ctrl.doutIdx = s.ctrl.doutIdx ∧
      t.ports.doutOut = s.ports.doutOut ∧ InputsKept s.ports t.ports) ∧
    (exec .squeeze s = .next t →
      t.arch.pat = s.arch.pat ∧ t.arch.patternLen = s.arch.patternLen ∧
      s.arch.outLen ≤ t.arch.outLen ∧
      (Store.wf s.arch.out = true → ∀ i, ¬(s.arch.outLen ≤ i ∧ i < t.arch.outLen) →
        Store.read t.arch.out i = Store.read s.arch.out i) ∧
      t.ctrl.wrIdx = s.ctrl.wrIdx ∧ InputsKept s.ports t.ports) ∧
    (∀ pattern tag, exec (.start pattern tag) s = .next t →
      t.ctrl.doutIdx = s.ctrl.doutIdx ∧ t.ports.doutOut = s.ports.doutOut ∧
      t.ports.preqOut = s.ports.preqOut ∧ InputsKept s.ports t.ports) ∧
    (exec .finish s = .next t →
      t.arch.fault = s.arch.fault ∧
      t.ctrl.wrIdx = s.ctrl.wrIdx ∧ t.ctrl.doutIdx = s.ctrl.doutIdx ∧
      t.ports.doutOut = s.ports.doutOut ∧ t.ports.preqOut = s.ports.preqOut ∧
      InputsKept s.ports t.ports)

/-- R18: how each command moves `io_count`: START and FINISH set it to 0, a successful ABSORB or
SQUEEZE adds 1, one that ends in error leaves it; and a reset edge sets it to 0. -/
def Obligations.IoCountMoves : Prop :=
  (∀ (i : Instr) (s t : State), exec i s = .next t →
    t.arch.ioCount =
      match i.op with
      | .start => 0
      | .finish => 0
      | .absorb => if t.ctrl.pend = .ok then s.arch.ioCount + 1 else s.arch.ioCount
      | .squeeze => if t.ctrl.pend = .ok then s.arch.ioCount + 1 else s.arch.ioCount) ∧
  ∀ (pins : Pins Config.hw) (s t : State), pins.rst = true → clockEdge Config.hw pins s = .next t →
    t.arch.ioCount = 0

/-! ## Errors -/

/-- R178: the order of the tests. The outcome of every command that answers, as the first condition
that applies; a malformed header is BadCommand before anything else (read from the step, which takes it
whole by the model's choice, entry 1). -/
def Obligations.OutcomesInTheOrderOfTheTests : Prop :=
  (∀ (pattern : List Nat) (tag : Nat) (s t : State), exec (.start pattern tag) s = .next t →
    t.ctrl.pend =
      if Config.hw.patternMax < pattern.length then .capacity
      else if ∃ v ∈ pattern, v = 0 ∨ 65536 ≤ v then .badPattern else .ok) ∧
  (∀ (input : List Nat) (s t : State), exec (.absorb input) s = .next t →
    t.ctrl.pend =
      if s.arch.ioCount = s.arch.patternLen then .patternExhausted
      else if Store.read s.arch.pat s.arch.ioCount ≠ input.length then .patternMismatch else .ok) ∧
  (∀ (s t : State), exec .squeeze s = .next t →
    t.ctrl.pend =
      if s.arch.ioCount = s.arch.patternLen then .patternExhausted
      else if Config.hw.outMax < s.arch.outLen + Store.read s.arch.pat s.arch.ioCount then .capacity
      else .ok) ∧
  (∀ (s t : State), exec .finish s = .next t → t.ctrl.pend = .ok) ∧
  ∀ (h : Header) (s t : State), Offered Config.hw h s → hdrWellFormed h = false → step s = .next t →
    t.ctrl.pend = .badCommand

/-- R180: a command that ends in error changes no architectural state but `fault`; only a START that
ends in error leaves the cleared state with the code. For the four commands and for a malformed
header. -/
def Obligations.ErrorsChangeOnlyFault : Prop :=
  (∀ (i : Instr) (s t : State), exec i s = .next t → t.ctrl.pend ≠ .ok →
    (i.op ≠ .start → t.arch = { s.arch with fault := t.arch.fault }) ∧
    (i.op = .start → t.arch = { State.reset.arch with fault := t.ctrl.pend })) ∧
  ∀ (h : Header) (s t : State), execMalformed h s = .next t →
    t.arch = { s.arch with fault := t.arch.fault }

/-- R181, R182: the update of `fault`. START leaves its own outcome there; every other command, and a
malformed header, records its error only where none stood, and nothing else changes it. -/
def Obligations.FaultKeepsTheFirstError : Prop :=
  (∀ (i : Instr) (s t : State), exec i s = .next t →
    t.arch.fault =
      if i.op = .start then t.ctrl.pend
      else if s.arch.fault = .ok then t.ctrl.pend else s.arch.fault) ∧
  ∀ (h : Header) (s t : State), execMalformed h s = .next t →
    t.arch.fault = if s.arch.fault = .ok then .badCommand else s.arch.fault

/-- Every command that answers has sent exactly one response word (R70, R179): `status` the outcome,
`op_echo` the opcode, `count` the accumulator's length for a successful SQUEEZE and otherwise 0; and
after an error nothing is streamed. -/
def Obligations.EveryCommandRespondsOnce : Prop :=
  (∀ (i : Instr) (s t : State), exec i s = .next t →
    t.ports.rspOut = s.ports.rspOut ++
      [BitVec.ofNat 32 (t.ctrl.pend.code.toNat +
        (if i.op = .squeeze ∧ t.ctrl.pend = .ok then t.arch.outLen else 0) * 2 ^ 8 +
        i.op.code.toNat * 2 ^ 24)] ∧
    ((i.op ≠ .squeeze ∨ t.ctrl.pend ≠ .ok) → t.ports.doutOut = s.ports.doutOut)) ∧
  ∀ (h : Header) (s t : State), execMalformed h s = .next t →
    t.ports.rspOut = s.ports.rspOut ++ [BitVec.ofNat 32 (5 + h.toNat % 4 * 2 ^ 24)] ∧
    t.ports.doutOut = s.ports.doutOut

/-- `fault` gates nothing (R22): with any other value in it, a command answers in the same way, with
the same state but for `fault` and the same outputs. -/
def Obligations.FaultGatesNothing : Prop :=
  ∀ (i : Instr) (s t : State) (f : Status), exec i s = .next t →
    ∃ t', exec i (withFault f s) = .next t' ∧
      t'.arch = { t.arch with fault := t'.arch.fault } ∧ t'.ctrl = t.ctrl ∧ t'.ports = t.ports

/-- The interface contract (R67): a START whose tag, or an ABSORB one of whose words, is not below `P`
is refused in every state, with no successor and no outcome. That this holds of a command that would end
in error too is read from the rule (entry 7). -/
def Obligations.NonCanonicalWordsAreRefused : Prop :=
  ∀ (s : State),
    (∀ pattern tag, Config.hw.modulus ≤ tag →
      exec (.start pattern tag) s = .refused .wordNotCanonical) ∧
    (∀ input x, x ∈ input → Config.hw.modulus ≤ x →
      exec (.absorb input) s = .refused .wordNotCanonical)

/-! ## The step -/

/-- A step runs the decoded command: when the controller is idle, the environment completes every
handshake, and the host's oldest header decodes with the words it offers, each of which `din_data`
carries (R60), the step is `exec` of the command in the state whose host has sent them. That a step is then a whole command is the model's choice
(entry 1). -/
def Obligations.StepRunsTheDecodedCommand : Prop :=
  ∀ (s : State) (h : Header) (more : List Header) (i : Instr) (rest : List Nat),
    s.ctrl.phase = .idle → serving s.ports = true → s.ports.cmdIn = h :: more →
    decode h s.ports.dinIn = .ok (i, rest) →
    (∀ w ∈ s.ports.dinIn.take (paylen h), w < 2 ^ fieldBits Config.hw) →
    step s = exec i { s with ports := { s.ports with cmdIn := more, dinIn := rest } }

/-- R175: a malformed header offered with its payload completes with BadCommand: only `fault` changes,
the response echoes `h[1:0]`, the payload is drained, and nothing is permuted or streamed. That the step
takes the header with its payload whole is the model's choice (entry 1). -/
def Obligations.MalformedHeaderIsBadCommand : Prop :=
  ∀ (h : Header) (s : State), Offered Config.hw h s → hdrWellFormed h = false →
    ∃ t, step s = .next t ∧
      t.arch = { s.arch with fault := if s.arch.fault = .ok then .badCommand else s.arch.fault } ∧
      t.ports = { s.ports with
        cmdIn := s.ports.cmdIn.drop 1
        dinIn := s.ports.dinIn.drop (paylen h)
        rspOut := s.ports.rspOut ++ [BitVec.ofNat 32 (5 + h.toNat % 4 * 2 ^ 24)] }

/-! ## Reset -/

/-- R28: the value of every piece of state after reset, and `st_busy`. -/
def Obligations.ResetValues : Prop :=
  (∀ i : Fin WIDTH, State.reset.arch.lanes[i] = 0) ∧
  (∀ i, Store.read State.reset.arch.pat i = 0) ∧ State.reset.arch.patternLen = 0 ∧
  State.reset.arch.ioCount = 0 ∧ State.reset.arch.absorbPos.val = 0 ∧
  State.reset.arch.squeezePos.val = 0 ∧
  (∀ i, Store.read State.reset.arch.out i = 0) ∧ State.reset.arch.outLen = 0 ∧
  State.reset.arch.fault.code = 0 ∧ State.reset.ctrl.phase.code = 0 ∧
  State.reset.ctrl.curOp.code = 0 ∧ State.reset.ctrl.curLen = 0 ∧ State.reset.ctrl.rem = 0 ∧
  State.reset.ctrl.pend.code = 0 ∧ State.reset.ctrl.wrIdx = 0 ∧ State.reset.ctrl.doutIdx = 0 ∧
  State.reset.ports.permUnit = none ∧
  (outputs Config.hw false State.reset).stBusy = false

/-- R201, R202: a reset edge in any phase and from any contents leaves the reset values in the block and
no outstanding request; while `rst` is 1 every `valid` and `ready` output is 0 and nothing transfers,
so what the host has not sent stays with it and nothing more is sent to it. -/
def Obligations.ResetEdgeWinsInEveryPhase : Prop :=
  ∀ (pins : Pins Config.hw) (s : State), pins.rst = true →
    clockEdge Config.hw pins s =
      .next { arch := State.reset.arch, ctrl := State.reset.ctrl
              ports := { s.ports with permUnit := none } } ∧
    transfers Config.hw pins s = ⟨false, false, false, false, false, false⟩ ∧
    (outputs Config.hw true s).cmdReady = false ∧ (outputs Config.hw true s).dinReady = false ∧
    (outputs Config.hw true s).rsp = none ∧ (outputs Config.hw true s).dout = none ∧
    (outputs Config.hw true s).preq = none ∧ (outputs Config.hw true s).prspReady = false

/-! ## The port level -/

/-- R155: the complete list of channel enables by phase; at most one is 1 in any cycle; all are 0 under
reset. -/
def Obligations.ChannelEnablesByPhase : Prop :=
  ∀ (s : State), Inv Config.hw s →
    ((outputs Config.hw false s).cmdReady = true ↔ s.ctrl.phase = .idle) ∧
    ((outputs Config.hw false s).dinReady = true ↔
      s.ctrl.phase = .startPat ∨ s.ctrl.phase = .startTag ∨
        (s.ctrl.phase = .absElem ∧ s.arch.absorbPos.val < 3) ∨
        (s.ctrl.phase = .drain ∧ 0 < s.ctrl.rem)) ∧
    ((outputs Config.hw false s).preq.isSome = true ↔ s.ctrl.phase = .permReq) ∧
    ((outputs Config.hw false s).prspReady = true ↔ s.ctrl.phase = .permWait) ∧
    ((outputs Config.hw false s).rsp.isSome = true ↔ s.ctrl.phase = .resp) ∧
    ((outputs Config.hw false s).dout.isSome = true ↔ s.ctrl.phase = .dout) ∧
    ([(outputs Config.hw false s).cmdReady, (outputs Config.hw false s).dinReady,
      (outputs Config.hw false s).rsp.isSome, (outputs Config.hw false s).dout.isSome,
      (outputs Config.hw false s).preq.isSome, (outputs Config.hw false s).prspReady].filter
        (fun b => b)).length ≤ 1 ∧
    [(outputs Config.hw true s).cmdReady, (outputs Config.hw true s).dinReady,
      (outputs Config.hw true s).rsp.isSome, (outputs Config.hw true s).dout.isSome,
      (outputs Config.hw true s).preq.isSome, (outputs Config.hw true s).prspReady] =
        [false, false, false, false, false, false]

/-- The status port (R23, R140): in every cycle `st_fault` is the code of `fault` (R71), the counts are
the registers on ports of CNT_BITS and OLEN_BITS bits, which hold their values whole wherever the
invariant holds, and `st_busy` is 1 exactly outside IDLE. -/
def Obligations.StatusPortShowsTheState : Prop :=
  ∀ (rst : Bool) (s : State),
    (outputs Config.hw rst s).stFault =
      (match s.arch.fault with
        | .ok => 0#3
        | .patternMismatch => 1#3
        | .patternExhausted => 2#3
        | .badPattern => 3#3
        | .capacity => 4#3
        | .badCommand => 5#3) ∧
    (outputs Config.hw rst s).stIoCount = BitVec.ofNat (cntBits Config.hw) s.arch.ioCount ∧
    (outputs Config.hw rst s).stPatternLen = BitVec.ofNat (cntBits Config.hw) s.arch.patternLen ∧
    (outputs Config.hw rst s).stOutLen = BitVec.ofNat (olenBits Config.hw) s.arch.outLen ∧
    ((outputs Config.hw rst s).stBusy = true ↔ s.ctrl.phase ≠ .idle) ∧
    (Inv Config.hw s →
      (outputs Config.hw rst s).stIoCount.toNat = s.arch.ioCount ∧
      (outputs Config.hw rst s).stPatternLen.toNat = s.arch.patternLen ∧
      (outputs Config.hw rst s).stOutLen.toNat = s.arch.outLen)

/-- The data ports carry FIELD_BITS bits (R60). A payload word that fits is on `din_data` as it is; one
that does not is never on DIN, so nothing is taken from DIN at that edge, and a command with such a word
is not taken whole; under the invariant `dout_data` carries the element of OUT whole. What the host has in hand when a word does not fit is the model's
choice (entry 8). -/
def Obligations.DataPortsCarryFieldBits : Prop :=
  ∀ (s : State),
    (∀ (w : Nat) (rest : List Nat), s.ports.dinIn = w :: rest →
      (w < 2 ^ fieldBits Config.hw →
        (envPins Config.hw s).din.map BitVec.toNat = some w) ∧
      (2 ^ fieldBits Config.hw ≤ w →
        (envPins Config.hw s).din = none ∧
          ∀ t, cycle Config.hw s = .next t → t.ports.dinIn = s.ports.dinIn)) ∧
    (∀ (h : Header) (more : List Header) (w : Nat), s.ports.cmdIn = h :: more →
      w ∈ s.ports.dinIn.take (paylen h) → 2 ^ fieldBits Config.hw ≤ w → step s = cycle Config.hw s) ∧
    (Inv Config.hw s → s.ctrl.phase = .dout →
      (outputs Config.hw false s).dout.map (fun d => (d.1.toNat, d.2)) =
        some (Store.read s.arch.out s.ctrl.doutIdx, decide (s.ctrl.doutIdx + 1 = s.arch.outLen)))

/-- A sender that has raised `valid` holds it and the payload until the transfer (R61): an edge at
which the other side does not accept leaves every offer of the block as it was. -/
def Obligations.OffersAreHeldUntilTransfer : Prop :=
  ∀ (pins : Pins Config.hw) (s t : State), pins.rst = false → clockEdge Config.hw pins s = .next t →
    (∀ w, (outputs Config.hw false s).rsp = some w → pins.rspReady = false →
      (outputs Config.hw false t).rsp = some w) ∧
    (∀ w, (outputs Config.hw false s).dout = some w → pins.doutReady = false →
      (outputs Config.hw false t).dout = some w) ∧
    (∀ w, (outputs Config.hw false s).preq = some w → pins.preqReady = false →
      (outputs Config.hw false t).preq = some w)

/-- R61, R161: each wait is lifted by its one named handshake and by nothing else. In a phase that waits
on a channel, an edge without reset at which the other side of that channel is silent leaves the whole
state as it is, whatever happens at every other pin. -/
def Obligations.WaitsAreNotLiftedByTime : Prop :=
  ∀ (pins : Pins Config.hw) (s : State), pins.rst = false →
    (s.ctrl.phase = .idle → pins.cmd = none → clockEdge Config.hw pins s = .next s) ∧
    (s.ctrl.phase = .startPat ∨ s.ctrl.phase = .startTag ∨
        (s.ctrl.phase = .absElem ∧ s.arch.absorbPos.val < 3) ∨
        (s.ctrl.phase = .drain ∧ 0 < s.ctrl.rem) →
      pins.din = none → clockEdge Config.hw pins s = .next s) ∧
    (s.ctrl.phase = .permReq → pins.preqReady = false → clockEdge Config.hw pins s = .next s) ∧
    (s.ctrl.phase = .permWait → pins.prsp = none → clockEdge Config.hw pins s = .next s) ∧
    (s.ctrl.phase = .resp → pins.rspReady = false → clockEdge Config.hw pins s = .next s) ∧
    (s.ctrl.phase = .dout → pins.doutReady = false → clockEdge Config.hw pins s = .next s)

/-- The arbiter (R128): the two requests are never both raised; a granted request moves the controller
to PERM_REQ at the next edge, nothing else changing. -/
def Obligations.ArbiterGrantsOneRequester : Prop :=
  ∀ (s : State) (pins : Pins Config.hw),
    (absReq s.arch s.ctrl && sqzReq s.arch s.ctrl) = false ∧
    (grant s.arch s.ctrl = some .absorb ↔ s.ctrl.phase = .absElem ∧ s.arch.absorbPos.val = 3) ∧
    (grant s.arch s.ctrl = some .squeeze ↔ s.ctrl.phase = .sqzElem ∧ s.arch.squeezePos.val = 3) ∧
    (pins.rst = false → grant s.arch s.ctrl ≠ none →
      clockEdge Config.hw pins s = .next { s with ctrl := { s.ctrl with phase := .permReq } })

/-- R150, R129: the write-back. PERM_WAIT accepts an answer; at the PRSP transfer of a canonical answer
the whole state is replaced; the absorb path resets `absorb_pos` and leaves `squeeze_pos`, the squeeze path resets both; the phase
that asked follows; `rem` is unchanged, and so is everything else. -/
def Obligations.PermutationWriteBack : Prop :=
  ∀ (pins : Pins Config.hw) (s : State) (v : BitVec (4 * fieldBits Config.hw)), pins.rst = false → pins.prsp = some v →
    s.ctrl.phase = .permWait →
    (∀ i : Fin WIDTH,
      v.toNat / 2 ^ (i.val * fieldBits Config.hw) % 2 ^ fieldBits Config.hw < Config.hw.modulus) →
    (outputs Config.hw pins.rst s).prspReady = true ∧ ∃ l : Lanes,
      (∀ i : Fin WIDTH, l[i] = v.toNat / 2 ^ (i.val * fieldBits Config.hw) % 2 ^ fieldBits Config.hw) ∧
      (s.ctrl.curOp = .absorb →
        clockEdge Config.hw pins s = .next { s with
          arch := { s.arch with lanes := l, absorbPos := 0 }
          ctrl := { s.ctrl with phase := .absElem }
          ports := { s.ports with permUnit := none } }) ∧
      (s.ctrl.curOp = .squeeze →
        clockEdge Config.hw pins s = .next { s with
          arch := { s.arch with lanes := l, squeezePos := 0, absorbPos := 0 }
          ctrl := { s.ctrl with phase := .sqzElem }
          ports := { s.ports with permUnit := none } })

/-- R131 clause (d): an answer with a lane that is not below `P` is refused. -/
def Obligations.NonCanonicalAnswerIsRefused : Prop :=
  ∀ (p : Params) (pins : Pins p) (s : State) (v : BitVec (4 * fieldBits p)) (i : Fin WIDTH),
    p.Valid → pins.rst = false → pins.prsp = some v → s.ctrl.phase = .permWait →
    p.modulus ≤ v.toNat / 2 ^ (i.val * fieldBits p) % 2 ^ fieldBits p →
    clockEdge p pins s = .refused .responseNotCanonical

/-- The mux (R134): at every edge the lanes change by exactly the effect selected: HOLD, CLEAR, TAG, ADD
or PERM. -/
def Obligations.LanesChangeThroughTheMux : Prop :=
  ∀ (pins : Pins Config.hw) (s t : State), Inv Config.hw s → clockEdge Config.hw pins s = .next t →
    t.arch.lanes =
      muxLanes Config.hw (stSel Config.hw pins s) s.arch.absorbPos (pins.din.getD 0).toNat
        (unpackLanes Config.hw (pins.prsp.getD 0)) s.arch.lanes

/-- R130: the trigger points are exhaustive. At the command level START, FINISH and every command that
ends in error leave the requests as they were; at the port level a request is sent only in PERM_REQ,
which is entered only from ABS_ELEM with `absorb_pos == RATE` or SQZ_ELEM with
`squeeze_pos == RATE`. -/
def Obligations.OnlyTwoPermutationTriggers : Prop :=
  (∀ (i : Instr) (s t : State), exec i s = .next t →
    (i.op = .start ∨ i.op = .finish ∨ t.ctrl.pend ≠ .ok) → t.ports.preqOut = s.ports.preqOut) ∧
  ∀ (pins : Pins Config.hw) (s t : State), clockEdge Config.hw pins s = .next t →
    (t.ports.preqOut ≠ s.ports.preqOut → s.ctrl.phase = .permReq) ∧
    (t.ctrl.phase = .permReq → s.ctrl.phase ≠ .permReq →
      (s.ctrl.phase = .absElem ∧ s.arch.absorbPos.val = 3) ∨
        (s.ctrl.phase = .sqzElem ∧ s.arch.squeezePos.val = 3))

/-- The host never sees a lane (R14): with other lanes in the register every output of the block but the
request to the permutation unit is the same; in IDLE the cursors make no difference either. -/
def Obligations.HostOutputsHideTheLanes : Prop :=
  ∀ (rst : Bool) (s : State) (l : Lanes) (apos spos : Cursor),
    { outputs Config.hw rst (withLanes l s) with preq := none } =
      { outputs Config.hw rst s with preq := none } ∧
    (s.ctrl.phase = .idle →
      outputs Config.hw rst
        { s with arch := { s.arch with lanes := l, absorbPos := apos, squeezePos := spos } } =
      outputs Config.hw rst s)

/-- In IDLE the hidden registers are dead: "no rule reads a value they held before the next command header
is accepted" (R24). With any others a step answers with the same architectural state, the same ports and
the same phase, and where a header was accepted with the same `cur_op`, `cur_len`, `rem` and `pend`; and
after any number of edges the architectural state, the ports and the phase are still the same. -/
def Obligations.HiddenRegistersAreDeadInIdle : Prop :=
  ∀ (s : State) (c : Ctrl), s.ctrl.phase = .idle → c.phase = .idle →
    (∀ t : State, step s = .next t →
      ∃ t', step (withCtrl c s) = .next t' ∧ t'.arch = t.arch ∧ t'.ports = t.ports ∧
        t'.ctrl.phase = t.ctrl.phase ∧
        (t.ctrl.phase ≠ .idle →
          t'.ctrl.curOp = t.ctrl.curOp ∧ t'.ctrl.curLen = t.ctrl.curLen ∧
            t'.ctrl.rem = t.ctrl.rem ∧ t'.ctrl.pend = t.ctrl.pend)) ∧
    ∀ (k : Nat) (t : State), cycles Config.hw k s = .next t →
      ∃ t', cycles Config.hw k (withCtrl c s) = .next t' ∧ t'.arch = t.arch ∧ t'.ports = t.ports ∧
        t'.ctrl.phase = t.ctrl.phase

/-! ## The invariant -/

/-- The invariant of R26, extended over the phases, holds at reset. -/
def Obligations.InvariantHoldsAtReset : Prop := Inv Config.hw State.reset

/-- Every step keeps the invariant of R26 and what each phase adds to it; what the phases add is the
model's reading of R140 to R154 (entries 13 and 17). -/
def Obligations.EveryStepKeepsTheInvariant : Prop :=
  ∀ (s t : State), Inv Config.hw s → step s = .next t → Inv Config.hw t

/-- Every clock edge, under any pins whatever, keeps the invariant. -/
def Obligations.EveryClockEdgeKeepsTheInvariant : Prop :=
  ∀ (pins : Pins Config.hw) (s t : State), Inv Config.hw s → clockEdge Config.hw pins s = .next t →
    Inv Config.hw t

/-- "No index computed by any rule can fall outside its space" (R42): under the invariant neither a step
nor a clock edge faults. -/
def Obligations.NoIndexLeavesItsStore : Prop :=
  ∀ (s : State), Inv Config.hw s →
    (∀ f, step s ≠ .fault f) ∧ ∀ (pins : Pins Config.hw) (f : Fault), clockEdge Config.hw pins s ≠ .fault f

/-- R107 clause (2), R5, R141: under the invariant every counter fits the register that holds it. -/
def Obligations.CountersFitTheirRegisters : Prop :=
  ∀ (s : State), Inv Config.hw s →
    s.arch.ioCount < 2 ^ cntBits Config.hw ∧ s.arch.patternLen < 2 ^ cntBits Config.hw ∧
    s.ctrl.wrIdx < 2 ^ cntBits Config.hw ∧ s.arch.outLen < 2 ^ olenBits Config.hw ∧
    s.ctrl.doutIdx < 2 ^ olenBits Config.hw ∧ s.ctrl.rem < 2 ^ 17 ∧
    s.arch.absorbPos.val < 2 ^ posBits ∧ s.arch.squeezePos.val < 2 ^ posBits ∧
    (∀ i, Store.read s.arch.pat i < 2 ^ 16) ∧
    (∀ i : Fin WIDTH, s.arch.lanes[i] < 2 ^ fieldBits Config.hw)

/-! ## Refinement and the lifecycle -/

/-- R160: Level B refines Level A. From an idle controller that meets the invariant, with a header and
its whole payload offered and an environment that completes every handshake, finitely many edges bring
the machine to exactly the state the command's transition gives: the same architectural state, the
same response, the same output stream, the same words consumed, the same requests in the same order,
the controller idle again; or to the refusal the command meets. That a command's step also leaves the
hidden registers as the edges do is the model's (entry 13). -/
def Obligations.ControllerRefinesTheCommand : Prop :=
  ∀ (h : Header) (s : State), Inv Config.hw s → Offered Config.hw h s →
    ∃ k, 0 < k ∧ cycles Config.hw k s = step s

/-- R26 clause (f): `out_len` is the sum of entries consumed so far (those that a SQUEEZE consumed):
reset has it, every command keeps it, a SQUEEZE adding its own entry to the sum. -/
def Obligations.OutLenSumsConsumedEntries : Prop :=
  OutLenSums State.reset.arch [] ∧
  ∀ (i : Instr) (s t : State) (used : List Nat), OutLenSums s.arch used → exec i s = .next t →
    OutLenSums t.arch
      (match i.op with
        | .start => []
        | .finish => []
        | .absorb => used
        | .squeeze => if t.ctrl.pend = .ok then used ++ [s.arch.ioCount] else used)

/-- R162: the transcript's lifecycle. START leads to Fresh, or to Done if the pattern is empty or it
fails; FINISH leads to Done; ABSORB and SQUEEZE succeed only in Fresh and Absorbing/Squeezing, each
leading on to Absorbing/Squeezing or Exhausted, and fail with PatternExhausted in Done and Exhausted. -/
def Obligations.LifecycleMoves : Prop :=
  ∀ (i : Instr) (s t : State), ArchInv Config.hw s.arch → exec i s = .next t →
    (∀ pattern tag, i = .start pattern tag →
      lifecycle t.arch = if t.ctrl.pend = .ok ∧ pattern ≠ [] then .fresh else .done) ∧
    (i = .finish → lifecycle t.arch = .done) ∧
    (i.op = .absorb ∨ i.op = .squeeze →
      (t.ctrl.pend = .ok →
        (lifecycle s.arch = .fresh ∨ lifecycle s.arch = .active) ∧
          (lifecycle t.arch = .active ∨ lifecycle t.arch = .exhausted)) ∧
      (lifecycle s.arch = .done ∨ lifecycle s.arch = .exhausted →
        t.ctrl.pend = .patternExhausted ∧ lifecycle t.arch = lifecycle s.arch))

/-- The document's Determinism property (spec/95_test_vectors.md V4): two engines in any two states,
started with the same pattern and tag and given the same commands, end in the same architectural state
and have sent the same responses, outputs and requests. R116 (g) and V4 state it with no premise on errors,
while R183 and U3 ask every claim about a transcript's outputs for `fault == 0` at each step: that it is
stated of commands after an error too is the model's choice (entry 23). It rests on the step being a
function, not on R180, and gives what is output after an error no meaning for the protocol (R207). -/
def Obligations.TranscriptsAreDeterministic : Prop :=
  ∀ (pattern : List Nat) (tag : Nat) (cmds : List Instr) (s s' t : State),
    execAll Config.hw (.start pattern tag :: cmds) s = .next t →
    ∃ t' rsp dout preq, execAll Config.hw (.start pattern tag :: cmds) s' = .next t' ∧
      t'.arch = t.arch ∧
      t.ports.rspOut = s.ports.rspOut ++ rsp ∧ t'.ports.rspOut = s'.ports.rspOut ++ rsp ∧
      t.ports.doutOut = s.ports.doutOut ++ dout ∧ t'.ports.doutOut = s'.ports.doutOut ++ dout ∧
      t.ports.preqOut = s.ports.preqOut ++ preq ∧ t'.ports.preqOut = s'.ports.preqOut ++ preq

/-- The document's reference scenario `[5,4]` (spec/95_test_vectors.md V1) for every permutation, field
and message: three invocations of `permute` with the arguments shown, and the four outputs as
expressions in it. -/
def Obligations.ReferenceScenarioFiveFour : Prop :=
  ∀ (p : Params) (tag x1 x2 x3 x4 x5 : Nat) (s : State), p.Valid → 2 ≤ p.patternMax → 4 ≤ p.outMax →
    tag < p.modulus → x1 < p.modulus → x2 < p.modulus → x3 < p.modulus → x4 < p.modulus →
    x5 < p.modulus →
    ∃ (t : State) (a1 a2 b1 b2 : Lanes),
      execAll p [.start [5, 4] tag, .absorb [x1, x2, x3, x4, x5], .squeeze] s = .next t ∧
      a1 = p.permute #v[tag, x1, x2, x3] ∧
      a2 = #v[a1[0], (a1[1] + x4) % p.modulus, (a1[2] + x5) % p.modulus, a1[3]] ∧
      b1 = p.permute a2 ∧ b2 = p.permute b1 ∧
      t.ports.preqOut = s.ports.preqOut ++ [#v[tag, x1, x2, x3], a2, b1] ∧
      t.ports.doutOut = s.ports.doutOut ++
        [(b1[1], false), (b1[2], false), (b1[3], false), (b2[1], true)] ∧
      t.arch.lanes = b2 ∧ t.arch.absorbPos.val = 0 ∧ t.arch.squeezePos.val = 1 ∧
      t.arch.ioCount = 2

/-- The counterexample of spec/90_conflicts.md C3 (program P6): patterns `[3,2]` and `[3,1,1]` with one
tag and one message give the same output values for every permutation: the pattern is not mixed into
the state. -/
def Obligations.DifferentPatternsSameOutputs : Prop :=
  ∀ (p : Params) (tag x1 x2 x3 : Nat) (s : State), p.Valid → 3 ≤ p.patternMax → 2 ≤ p.outMax →
    tag < p.modulus → x1 < p.modulus → x2 < p.modulus → x3 < p.modulus →
    ∃ t u,
      execAll p [.start [3, 2] tag, .absorb [x1, x2, x3], .squeeze] s = .next t ∧
      execAll p [.start [3, 1, 1] tag, .absorb [x1, x2, x3], .squeeze, .squeeze] s = .next u ∧
      t.arch.outLen = 2 ∧ u.arch.outLen = 2 ∧ t.arch.out = u.arch.out ∧
      t.arch.lanes = u.arch.lanes
end

