-- ==== Sys2Proof/Laws/Config.lean ====
section
/-! SUPPORT. What is known of the open parameters: the ranges the spec gives them, and nothing else. -/

namespace Sys2Proof.Laws

open Sys2Proof Sys2Proof.Machine

/-- The parameters of this hardware lie in the ranges of R4, R5 and R131 clause (d). -/
theorem hw_valid : Config.hw.Valid where
  prime := Config.fieldModulus.property
  patternMax_pos := Nat.succ_pos _
  patternMax_le := Config.patternMaxPred.isLt
  outMax_pos := Nat.succ_pos _
  outMax_le := Config.outMaxPred.isLt
  permute_canonical := fun l _ i => by
    simp only [Config.hw, Fin.getElem_fin, Vector.getElem_map]
    exact Nat.mod_lt _ Config.fieldModulus.property.pos

theorem Params.Valid.modulus_pos {p : Params} (h : p.Valid) : 0 < p.modulus := h.prime.pos

/-- The contract of R67 is `< P`. -/
theorem canonicalWord_iff {p : Params} (h : p.Valid) (w : Nat) :
    canonicalWord p w = true ↔ w < p.modulus := by
  have := h.prime.pos
  simp only [canonicalWord, Bool.or_eq_true, beq_iff_eq, decide_eq_true_eq]
  omega

@[simp] theorem canonicalWord_zero (p : Params) : canonicalWord p 0 = true := rfl

/-- A legal entry is an integer in `[1, 65535]` (R5, R67). -/
theorem legalEntry_iff (v : Nat) : legalEntry v = true ↔ 1 ≤ v ∧ v ≤ 65535 := by
  simp only [legalEntry, Bool.and_eq_true, bne_iff_ne, ne_eq, decide_eq_true_eq]
  omega

/-- The contract of a permutation's answer (R131 clause (d)). -/
theorem canonicalLanes_iff {p : Params} (h : p.Valid) (l : Lanes) :
    canonicalLanes p l = true ↔ p.CanonicalLanes l := by
  simp only [canonicalLanes, List.all_eq_true, Vector.mem_toList_iff, canonicalWord_iff h,
    Params.CanonicalLanes, Fin.getElem_fin]
  constructor
  · intro hl i
    exact hl _ (Vector.getElem_mem i.isLt)
  · intro hl x hx
    obtain ⟨i, hi, rfl⟩ := Vector.getElem_of_mem hx
    exact hl ⟨i, hi⟩

/-- A field sum is a field element (R4, R107). -/
theorem fadd_lt {p : Params} (h : p.Valid) (a b : Nat) : fadd p a b < p.modulus :=
  Nat.mod_lt _ h.prime.pos

/-- A number is below two to its bit length (R7). -/
theorem lt_two_pow_bitlength (n : Nat) : n < 2 ^ bitlength n := by
  unfold bitlength
  split
  · omega
  · exact Nat.lt_log2_self

end Sys2Proof.Laws
end

