-- ==== Sys2Proof/Laws/State.lean ====
section
/-! SUPPORT. One lemma per field for each update of State that the commands and the controller make,
true by rfl, so that no later proof unfolds a record update. -/

namespace Sys2Proof.Laws

open Sys2Proof Sys2Proof.Machine

/-! ## `setFault`, `clearAll`, `clearFault` -/

@[simp] theorem setFault_lanes (c : Status) (a : Arch) : (setFault c a).lanes = a.lanes := by
  unfold setFault; split <;> rfl
@[simp] theorem setFault_pat (c : Status) (a : Arch) : (setFault c a).pat = a.pat := by
  unfold setFault; split <;> rfl
@[simp] theorem setFault_patternLen (c : Status) (a : Arch) :
    (setFault c a).patternLen = a.patternLen := by
  unfold setFault; split <;> rfl
@[simp] theorem setFault_ioCount (c : Status) (a : Arch) : (setFault c a).ioCount = a.ioCount := by
  unfold setFault; split <;> rfl
@[simp] theorem setFault_absorbPos (c : Status) (a : Arch) :
    (setFault c a).absorbPos = a.absorbPos := by
  unfold setFault; split <;> rfl
@[simp] theorem setFault_squeezePos (c : Status) (a : Arch) :
    (setFault c a).squeezePos = a.squeezePos := by
  unfold setFault; split <;> rfl
@[simp] theorem setFault_out (c : Status) (a : Arch) : (setFault c a).out = a.out := by
  unfold setFault; split <;> rfl
@[simp] theorem setFault_outLen (c : Status) (a : Arch) : (setFault c a).outLen = a.outLen := by
  unfold setFault; split <;> rfl
theorem setFault_fault (c : Status) (a : Arch) :
    (setFault c a).fault = if a.fault = .ok then c else a.fault := by
  unfold setFault; split <;> rfl
/-- `set_fault` changes `fault` and nothing else (R180, R181). -/
theorem setFault_eq (c : Status) (a : Arch) :
    setFault c a = { a with fault := if a.fault = .ok then c else a.fault } := by
  unfold setFault; split <;> rfl

@[simp] theorem clearAll_fault (a : Arch) : (clearAll a).fault = a.fault := rfl
@[simp] theorem clearAll_lanes (a : Arch) : (clearAll a).lanes = zeroLanes := rfl
@[simp] theorem clearAll_pat (a : Arch) : (clearAll a).pat = [] := rfl
@[simp] theorem clearAll_patternLen (a : Arch) : (clearAll a).patternLen = 0 := rfl
@[simp] theorem clearAll_ioCount (a : Arch) : (clearAll a).ioCount = 0 := rfl
@[simp] theorem clearAll_absorbPos (a : Arch) : (clearAll a).absorbPos = 0 := rfl
@[simp] theorem clearAll_squeezePos (a : Arch) : (clearAll a).squeezePos = 0 := rfl
@[simp] theorem clearAll_out (a : Arch) : (clearAll a).out = [] := rfl
@[simp] theorem clearAll_outLen (a : Arch) : (clearAll a).outLen = 0 := rfl
@[simp] theorem clearFault_clearAll (a : Arch) : clearFault (clearAll a) = Arch.reset := rfl

/-! ## The end of a command -/

@[simp] theorem finishCommand_arch (op : Op) (len : BitVec LEN_BITS) (st : Status) (s : State) :
    (finishCommand op len st s).arch = s.arch := rfl
@[simp] theorem finishCommand_ctrl (op : Op) (len : BitVec LEN_BITS) (st : Status) (s : State) :
    (finishCommand op len st s).ctrl =
      { s.ctrl with phase := .idle, curOp := op, curLen := len, rem := 0, pend := st } := rfl
@[simp] theorem finishCommand_ports (op : Op) (len : BitVec LEN_BITS) (st : Status) (s : State) :
    (finishCommand op len st s).ports =
      { s.ports with rspOut := s.ports.rspOut ++ [rspWord op st (rspCount op st s.arch)] } := rfl

@[simp] theorem raiseError_arch (op : Op) (len : BitVec LEN_BITS) (st : Status) (s : State) :
    (raiseError op len st s).arch = setFault st s.arch := rfl
@[simp] theorem raiseError_ctrl (op : Op) (len : BitVec LEN_BITS) (st : Status) (s : State) :
    (raiseError op len st s).ctrl =
      { s.ctrl with phase := .idle, curOp := op, curLen := len, rem := 0, pend := st } := rfl
@[simp] theorem raiseError_ports (op : Op) (len : BitVec LEN_BITS) (st : Status) (s : State) :
    (raiseError op len st s).ports =
      { s.ports with rspOut := s.ports.rspOut ++ [rspWord op st (rspCount op st (setFault st s.arch))] } :=
  rfl

@[simp] theorem streamOut_arch (s : State) : (streamOut s).arch = s.arch := rfl
@[simp] theorem streamOut_ctrl (s : State) :
    (streamOut s).ctrl = { s.ctrl with doutIdx := s.arch.outLen - 1 } := rfl
@[simp] theorem streamOut_ports (s : State) :
    (streamOut s).ports =
      { s.ports with doutOut := s.ports.doutOut ++ outWords s.arch 0 s.arch.outLen } := rfl

/-! ## The element steps -/

@[simp] theorem addElem_ctrl (p : Params) (i : Fin WIDTH) (x : Nat) (s : State) :
    (addElem p i x s).ctrl = s.ctrl := rfl
@[simp] theorem addElem_ports (p : Params) (i : Fin WIDTH) (x : Nat) (s : State) :
    (addElem p i x s).ports = s.ports := rfl
@[simp] theorem permuteForAbsorb_ctrl (p : Params) (s : State) :
    (permuteForAbsorb p s).ctrl = s.ctrl := rfl
@[simp] theorem permuteForAbsorb_ports (p : Params) (s : State) :
    (permuteForAbsorb p s).ports = { s.ports with preqOut := s.ports.preqOut ++ [s.arch.lanes] } := rfl
@[simp] theorem permuteForSqueeze_ctrl (p : Params) (s : State) :
    (permuteForSqueeze p s).ctrl = s.ctrl := rfl
@[simp] theorem permuteForSqueeze_ports (p : Params) (s : State) :
    (permuteForSqueeze p s).ports = { s.ports with preqOut := s.ports.preqOut ++ [s.arch.lanes] } := rfl
@[simp] theorem absorbDone_ctrl (s : State) : (absorbDone s).ctrl = s.ctrl := rfl
@[simp] theorem absorbDone_ports (s : State) : (absorbDone s).ports = s.ports := rfl
@[simp] theorem squeezeDone_ctrl (s : State) : (squeezeDone s).ctrl = s.ctrl := rfl
@[simp] theorem squeezeDone_ports (s : State) : (squeezeDone s).ports = s.ports := rfl

/-! ## The controller's moves -/

@[simp] theorem goto_arch (ph : Phase) (s : State) : (goto ph s).arch = s.arch := rfl
@[simp] theorem goto_ctrl (ph : Phase) (s : State) :
    (goto ph s).ctrl = { s.ctrl with phase := ph } := rfl
@[simp] theorem goto_ports (ph : Phase) (s : State) : (goto ph s).ports = s.ports := rfl
@[simp] theorem errorTo_arch (c : Status) (ph : Phase) (s : State) :
    (errorTo c ph s).arch = setFault c s.arch := rfl
@[simp] theorem errorTo_ctrl (c : Status) (ph : Phase) (s : State) :
    (errorTo c ph s).ctrl = { s.ctrl with pend := c, phase := ph } := rfl
@[simp] theorem errorTo_ports (c : Status) (ph : Phase) (s : State) :
    (errorTo c ph s).ports = s.ports := rfl
@[simp] theorem acceptHeader_arch (h : Header) (s : State) : (acceptHeader h s).arch = s.arch := rfl
@[simp] theorem acceptHeader_ctrl (h : Header) (s : State) :
    (acceptHeader h s).ctrl =
      { s.ctrl with curOp := hdrOp h, curLen := hdrLen h, rem := paylen h, pend := .ok } := rfl
@[simp] theorem acceptHeader_ports (h : Header) (s : State) :
    (acceptHeader h s).ports = s.ports := rfl
@[simp] theorem countWord_arch (s : State) : (countWord s).arch = s.arch := rfl
@[simp] theorem countWord_ctrl (s : State) :
    (countWord s).ctrl = { s.ctrl with rem := s.ctrl.rem - 1 } := rfl
@[simp] theorem countWord_ports (s : State) : (countWord s).ports = s.ports := rfl
@[simp] theorem clearPat_arch (s : State) : (clearPat s).arch = { s.arch with pat := [] } := rfl
@[simp] theorem clearPat_ctrl (s : State) : (clearPat s).ctrl = s.ctrl := rfl
@[simp] theorem clearPat_ports (s : State) : (clearPat s).ports = s.ports := rfl
@[simp] theorem nextEntry_arch (a : Arch) (s : State) : (nextEntry a s).arch = a := rfl
@[simp] theorem nextEntry_ctrl (a : Arch) (s : State) :
    (nextEntry a s).ctrl =
      { s.ctrl with
        wrIdx := s.ctrl.wrIdx + 1
        phase := if s.ctrl.wrIdx + 1 = s.ctrl.curLen.toNat then .startTag else .startPat } := rfl
@[simp] theorem nextEntry_ports (a : Arch) (s : State) : (nextEntry a s).ports = s.ports := rfl
@[simp] theorem takeTag_arch (w : Nat) (s : State) :
    (takeTag w s).arch =
      { s.arch with lanes := tagLanes s.arch.lanes w, patternLen := s.ctrl.curLen.toNat } := rfl
@[simp] theorem takeTag_ctrl (w : Nat) (s : State) : (takeTag w s).ctrl = s.ctrl := rfl
@[simp] theorem takeTag_ports (w : Nat) (s : State) : (takeTag w s).ports = s.ports := rfl
@[simp] theorem setUnit_arch (l : Option Lanes) (s : State) : (setUnit l s).arch = s.arch := rfl
@[simp] theorem setUnit_ctrl (l : Option Lanes) (s : State) : (setUnit l s).ctrl = s.ctrl := rfl
@[simp] theorem setUnit_ports (l : Option Lanes) (s : State) :
    (setUnit l s).ports = { s.ports with permUnit := l } := rfl
@[simp] theorem recordRequest_arch (s : State) : (recordRequest s).arch = s.arch := rfl
@[simp] theorem recordRequest_ctrl (s : State) : (recordRequest s).ctrl = s.ctrl := rfl
@[simp] theorem recordRequest_ports (s : State) :
    (recordRequest s).ports = { s.ports with preqOut := s.ports.preqOut ++ [s.arch.lanes] } := rfl
@[simp] theorem sendResponse_arch (op : Op) (st : Status) (s : State) :
    (sendResponse op st s).arch = s.arch := rfl
@[simp] theorem sendResponse_ctrl (op : Op) (st : Status) (s : State) :
    (sendResponse op st s).ctrl = s.ctrl := rfl
@[simp] theorem sendResponse_ports (op : Op) (st : Status) (s : State) :
    (sendResponse op st s).ports =
      { s.ports with rspOut := s.ports.rspOut ++ [rspWord op st (rspCount op st s.arch)] } := rfl
@[simp] theorem sendElem_arch (v : Nat) (last : Bool) (s : State) : (sendElem v last s).arch = s.arch :=
  rfl
@[simp] theorem sendElem_ctrl (v : Nat) (last : Bool) (s : State) : (sendElem v last s).ctrl = s.ctrl :=
  rfl
@[simp] theorem sendElem_ports (v : Nat) (last : Bool) (s : State) :
    (sendElem v last s).ports = { s.ports with doutOut := s.ports.doutOut ++ [(v, last)] } := rfl
@[simp] theorem takeOffered_arch (t : Transfers) (s : State) : (takeOffered t s).arch = s.arch := rfl
@[simp] theorem takeOffered_ctrl (t : Transfers) (s : State) : (takeOffered t s).ctrl = s.ctrl := rfl
@[simp] theorem taken_arch (din : List Nat) (s : State) : (taken din s).arch = s.arch := rfl
@[simp] theorem taken_ctrl (din : List Nat) (s : State) : (taken din s).ctrl = s.ctrl := rfl
@[simp] theorem startClear_arch (s : State) : (startClear s).arch = Arch.reset := rfl
@[simp] theorem startClear_ctrl (s : State) :
    (startClear s).ctrl = { s.ctrl with wrIdx := 0 } := rfl
@[simp] theorem startClear_ports (s : State) : (startClear s).ports = s.ports := rfl

/-- `exec` is the meanings at the parameters of this hardware. -/
theorem exec_eq_execWith (i : Instr) (s : State) : exec i s = execWith Config.hw i s := by
  cases i <;> rfl

end Sys2Proof.Laws
end

