-- ==== Sys2Proof/Laws/Store.lean ====
section
/-! SUPPORT. The laws of the sparse stores PAT and OUT: a read after a write, the canonical form, and
the loading of a pattern. -/

namespace Sys2Proof.Laws

open Sys2Proof.Machine

@[simp] theorem read_nil (i : Nat) : Store.read [] i = 0 := rfl

theorem wfFrom_mono {lo lo' : Nat} (h : lo ≤ lo') :
    ∀ m : Store, Store.wfFrom lo' m = true → Store.wfFrom lo m = true
  | [], _ => rfl
  | (i, v) :: r, hm => by
    simp only [Store.wfFrom, Bool.and_eq_true, decide_eq_true_eq] at hm ⊢
    exact ⟨⟨by omega, hm.1.2⟩, hm.2⟩

/-- Below the first index a canonical store lists nothing. -/
theorem read_below {lo : Nat} : ∀ (m : Store) (i : Nat), Store.wfFrom lo m = true → i < lo →
    Store.read m i = 0
  | [], _, _, _ => rfl
  | (j, v) :: r, i, hm, hi => by
    simp only [Store.wfFrom, Bool.and_eq_true, decide_eq_true_eq] at hm
    have : i ≠ j := by omega
    simp only [Store.read, this, if_false]
    exact read_below r i hm.2 (by omega)

/-- Writing keeps the canonical form from any index the write is not below. -/
theorem wfFrom_write {lo : Nat} : ∀ (m : Store) (i v : Nat), Store.wfFrom lo m = true → lo ≤ i →
    Store.wfFrom lo (Store.write m i v) = true
  | [], i, v, _, hi => by
    by_cases hv : v = 0 <;> simp [Store.write, Store.wfFrom, hv, hi]
  | (j, w) :: r, i, v, hm, hi => by
    have hm' := hm
    simp only [Store.wfFrom, Bool.and_eq_true, decide_eq_true_eq] at hm'
    obtain ⟨⟨hj, hw⟩, hr⟩ := hm'
    simp only [Store.write]
    split
    · by_cases hv : v = 0
      · simpa [hv] using hm
      · simp_all [Store.wfFrom]
    · split
      · by_cases hv : v = 0
        · simp only [hv, if_true]; exact wfFrom_mono (by omega) r hr
        · simp_all [Store.wfFrom]
      · have := wfFrom_write r i v hr (by omega)
        simp_all [Store.wfFrom]

/-- Every write keeps the canonical form. -/
theorem wf_write {m : Store} (h : Store.wf m = true) (i v : Nat) : Store.wf (Store.write m i v) = true :=
  wfFrom_write m i v h (Nat.zero_le i)

@[simp] theorem wf_nil : Store.wf [] = true := rfl

/-- A read after a write. -/
theorem read_write_from {lo : Nat} : ∀ (m : Store) (i v j : Nat), Store.wfFrom lo m = true →
    Store.read (Store.write m i v) j = if j = i then v else Store.read m j
  | [], i, v, j, _ => by
    by_cases hv : v = 0 <;> by_cases hj : j = i <;> simp [Store.write, Store.read, hv, hj]
  | (k, w) :: r, i, v, j, hm => by
    simp only [Store.wfFrom, Bool.and_eq_true, decide_eq_true_eq] at hm
    obtain ⟨⟨hk, hw⟩, hr⟩ := hm
    have hbelow : ∀ j, j ≤ k → Store.read r j = 0 := fun j h => read_below r j hr (by omega)
    simp only [Store.write]
    split
    · rename_i hik
      by_cases hv : v = 0
      · simp only [hv, if_true]
        by_cases hj : j = i
        · have : i ≠ k := by omega
          simp [hj, Store.read, this, hbelow i (by omega)]
        · simp [hj]
      · simp only [hv, if_false]
        by_cases hj : j = i <;> simp [hj, Store.read]
    · split
      · rename_i _ hik
        subst hik
        by_cases hv : v = 0
        · simp only [hv, if_true]
          by_cases hj : j = i
          · simp [hj, hbelow i (le_refl _)]
          · simp [hj, Store.read]
        · simp only [hv, if_false]
          by_cases hj : j = i <;> simp [hj, Store.read]
      · rename_i h1 h2
        have ih := read_write_from r i v j hr
        by_cases hjk : j = k
        · subst hjk
          have : j ≠ i := by omega
          simp [Store.read, this]
        · simp [Store.read, hjk, ih]

/-- A read after a write to a canonical store: the written index reads the value, every other index
reads as before. -/
theorem read_write {m : Store} (h : Store.wf m = true) (i v j : Nat) :
    Store.read (Store.write m i v) j = if j = i then v else Store.read m j :=
  read_write_from m i v j h

/-- Loading a pattern keeps the canonical form. -/
theorem wf_loadPattern : ∀ (vs : List Nat) (i : Nat) (m : Store), Store.wf m = true →
    Store.wf (loadPattern vs i m) = true
  | [], _, _, h => h
  | v :: vs, i, _, h => wf_loadPattern vs (i + 1) _ (wf_write h i v)

/-- What a loaded pattern reads: entry `i + k` is the pattern's entry `k`. -/
theorem read_loadPattern : ∀ (vs : List Nat) (i : Nat) (m : Store), Store.wf m = true → ∀ j,
    Store.read (loadPattern vs i m) j =
      if i ≤ j ∧ j < i + vs.length then vs.getD (j - i) 0 else Store.read m j
  | [], i, _, _, j => by
    have : ¬(i ≤ j ∧ j < i + ([] : List Nat).length) := by simp
    rw [if_neg this]; rfl
  | v :: vs, i, m, h, j => by
    rw [loadPattern, read_loadPattern vs (i + 1) _ (wf_write h i v) j, read_write h]
    rcases Nat.lt_trichotomy j i with hj | hj | hj
    · have h1 : ¬(i + 1 ≤ j ∧ j < i + 1 + vs.length) := by omega
      have h2 : ¬(i ≤ j ∧ j < i + (v :: vs).length) := by omega
      have h3 : j ≠ i := by omega
      rw [if_neg h1, if_neg h2, if_neg h3]
    · subst hj
      have h1 : ¬(j + 1 ≤ j ∧ j < j + 1 + vs.length) := by omega
      have h2 : j ≤ j ∧ j < j + (v :: vs).length := by simp
      rw [if_neg h1, if_pos h2]
      simp
    · obtain ⟨d, rfl⟩ : ∃ d, j = i + 1 + d := ⟨j - (i + 1), by omega⟩
      have h3 : i + 1 + d ≠ i := by omega
      have h4 : i + 1 + d - (i + 1) = d := by omega
      have h5 : i + 1 + d - i = d + 1 := by omega
      rw [h4, h5, if_neg h3]
      by_cases hd : d < vs.length
      · have h1 : i + 1 ≤ i + 1 + d ∧ i + 1 + d < i + 1 + vs.length := by omega
        have h2 : i ≤ i + 1 + d ∧ i + 1 + d < i + (v :: vs).length := by
          simp only [List.length_cons]; omega
        rw [if_pos h1, if_pos h2, List.getD_cons_succ]
      · have h1 : ¬(i + 1 ≤ i + 1 + d ∧ i + 1 + d < i + 1 + vs.length) := by omega
        have h2 : ¬(i ≤ i + 1 + d ∧ i + 1 + d < i + (v :: vs).length) := by
          simp only [List.length_cons]; omega
        rw [if_neg h1, if_neg h2]

/-- The reset state's stores are in the canonical form. -/
theorem wf_reset : Store.wf Arch.reset.pat = true ∧ Store.wf Arch.reset.out = true := ⟨rfl, rfl⟩

end Sys2Proof.Laws
end

