-- ==== Sys2Proof/Laws/Ops.lean ====
section
/-! SUPPORT. What each shared operation can do, said once: the cursors, the element steps, the loops,
and how they keep the invariant of the architectural state. -/

namespace Sys2Proof.Laws

open Sys2Proof Sys2Proof.Machine

/-! ## Cursors -/

/-- The two cases of a cursor: below RATE it addresses lane `pos + CAPACITY`; at RATE it addresses
none (R19, R20, R42). -/
theorem rateLane_cases (pos : Cursor) :
    (∃ i : Fin WIDTH, rateLane pos = some i ∧ i.val = pos.val + 1 ∧ pos.val < 3 ∧
        pos.next.val = pos.val + 1) ∨
      (rateLane pos = none ∧ pos = sentinel) := by
  by_cases h : pos.val < RATE
  · left
    refine ⟨⟨pos.val + CAPACITY, by simp only [WIDTH]; omega⟩, ?_, rfl, h, ?_⟩
    · simp [rateLane, h]
    · simp [Cursor.next, h]
  · right
    refine ⟨by simp [rateLane, h], ?_⟩
    have := pos.isLt
    apply Fin.ext
    simp only [sentinel, Fin.val_last]
    omega

@[simp] theorem rateLane_sentinel : rateLane sentinel = none := rfl
@[simp] theorem rateLane_zero : rateLane 0 = some firstRateLane := rfl
@[simp] theorem sentinel_val : sentinel.val = 3 := rfl
@[simp] theorem firstRateLane_val : firstRateLane.val = 1 := rfl

theorem rateLane_eq_none_iff (pos : Cursor) : rateLane pos = none ↔ pos = sentinel := by
  rcases rateLane_cases pos with ⟨i, h, hi, hlt, hn⟩ | ⟨h, hs⟩
  · rw [h]
    constructor
    · intro h'; cases h'
    · intro h'
      have := congrArg Fin.val h'
      simp at this
      omega
  · simp [hs]

/-! ## Lanes -/

/-- What ADD writes (R101, R103): the field sum in the lane, every other lane as it was. -/
theorem getElem_addLane (p : Params) (l : Lanes) (i j : Fin WIDTH) (x : Nat) :
    (addLane p l i x)[j] = if i = j then fadd p l[i] x else l[j] := by
  simp only [addLane, Fin.getElem_fin, Vector.getElem_set, Fin.ext_iff]

@[simp] theorem getElem_zeroLanes (j : Fin WIDTH) : zeroLanes[j] = 0 := by
  simp [zeroLanes]

/-- What TAG writes (R90). -/
theorem getElem_tagLanes (l : Lanes) (tag : Nat) (j : Fin WIDTH) :
    (tagLanes l tag)[j] = if j.val = 0 then tag else l[j] := by
  simp only [tagLanes, Fin.getElem_fin, Vector.getElem_set, eq_comm]

theorem canonical_addLane {p : Params} (h : p.Valid) {l : Lanes} (hl : p.CanonicalLanes l)
    (i : Fin WIDTH) (x : Nat) : p.CanonicalLanes (addLane p l i x) := by
  intro j
  rw [getElem_addLane]
  split
  · exact fadd_lt h _ _
  · exact hl j

theorem canonical_zeroLanes {p : Params} (h : p.Valid) : p.CanonicalLanes zeroLanes := fun j => by
  rw [getElem_zeroLanes]; exact h.prime.pos

theorem canonical_tagLanes {p : Params} {l : Lanes} (hl : p.CanonicalLanes l) {tag : Nat}
    (ht : tag < p.modulus) : p.CanonicalLanes (tagLanes l tag) := fun j => by
  rw [getElem_tagLanes]
  split
  · exact ht
  · exact hl j

/-! ## Reads of the stores -/

/-- A read of PAT answers exactly below PATTERN_MAX (R40, R42). -/
theorem patRead_ok {p : Params} {a : Arch} {i n : Nat} (h : patRead p a i = .ok n) :
    i < p.patternMax ∧ n = Store.read a.pat i := by
  unfold patRead at h
  by_cases hi : i < p.patternMax
  · rw [if_pos hi] at h; cases h; exact ⟨hi, rfl⟩
  · rw [if_neg hi] at h; cases h

/-- A write to PAT answers exactly below PATTERN_MAX (R40, R42). -/
theorem patWrite_ok {p : Params} {a b : Arch} {i v : Nat} (h : patWrite p a i v = .ok b) :
    i < p.patternMax ∧ b = { a with pat := Store.write a.pat i v } := by
  unfold patWrite at h
  by_cases hi : i < p.patternMax
  · rw [if_pos hi] at h; cases h; exact ⟨hi, rfl⟩
  · rw [if_neg hi] at h; cases h

/-- A read of OUT answers exactly below OUT_MAX (R40, R42). -/
theorem outRead_ok {p : Params} {a : Arch} {i v : Nat} (h : outRead p a i = .ok v) :
    i < p.outMax ∧ v = Store.read a.out i := by
  unfold outRead at h
  by_cases hi : i < p.outMax
  · rw [if_pos hi] at h; cases h; exact ⟨hi, rfl⟩
  · rw [if_neg hi] at h; cases h

/-! ## The element steps -/

/-- Everything `absorb_elem` can do (R101): below RATE the sum goes into the lane of the cursor; at
RATE the state is permuted first and the sum goes into `rate[0]`. -/
theorem absorbElem_cases (p : Params) (x : Nat) (s : State) :
    (∃ i : Fin WIDTH, rateLane s.arch.absorbPos = some i ∧ absorbElem p x s = addElem p i x s) ∨
      (s.arch.absorbPos = sentinel ∧
        absorbElem p x s = addElem p firstRateLane x (permuteForAbsorb p s)) := by
  unfold absorbElem
  rcases rateLane_cases s.arch.absorbPos with ⟨i, h, _⟩ | ⟨h, hs⟩
  · exact .inl ⟨i, h, by rw [h]⟩
  · exact .inr ⟨hs, by rw [h]⟩

/-- Everything `squeeze_elem` can do (R111). -/
theorem squeezeElem_cases (p : Params) (s : State) :
    (∃ i : Fin WIDTH, rateLane s.arch.squeezePos = some i ∧ squeezeElem p s = takeElem p i s) ∨
      (s.arch.squeezePos = sentinel ∧
        squeezeElem p s = takeElem p firstRateLane (permuteForSqueeze p s)) := by
  unfold squeezeElem
  rcases rateLane_cases s.arch.squeezePos with ⟨i, h, _⟩ | ⟨h, hs⟩
  · exact .inl ⟨i, h, by rw [h]⟩
  · exact .inr ⟨hs, by rw [h]⟩

/-- The state after one element has been taken from lane `i` (R111). -/
def tookElem (i : Fin WIDTH) (s : State) : State :=
  { s with arch := { s.arch with
      out := Store.write s.arch.out s.arch.outLen s.arch.lanes[i]
      outLen := s.arch.outLen + 1
      squeezePos := s.arch.squeezePos.next } }

/-- Taking an element succeeds exactly where OUT has the index (R42, R111). -/
theorem takeElem_eq (p : Params) (i : Fin WIDTH) (s : State) :
    takeElem p i s =
      if s.arch.outLen < p.outMax then .ok (tookElem i s) else .error .outIndex := by
  unfold takeElem outWrite
  by_cases h : s.arch.outLen < p.outMax
  · rw [if_pos h, if_pos h]; rfl
  · rw [if_neg h, if_neg h]

/-! ## The invariant of the architectural state -/

theorem archInv_setFault {p : Params} {a : Arch} (h : ArchInv p a) (c : Status) :
    ArchInv p (setFault c a) := by
  constructor <;> simp only [setFault_lanes, setFault_pat, setFault_patternLen, setFault_ioCount,
    setFault_absorbPos, setFault_squeezePos, setFault_out, setFault_outLen]
  exacts [h.ioCount_le, h.patternLen_le, h.outLen_le, h.entry_legal, h.entry_zero, h.out_zero,
    h.lanes_canonical, h.out_canonical, h.pat_wf, h.out_wf, h.cleared]

/-- The cleared state, whatever `fault` holds (R27). -/
theorem archInv_cleared {p : Params} (hp : p.Valid) (c : Status) :
    ArchInv p { Arch.reset with fault := c } where
  ioCount_le := Nat.le_refl _
  patternLen_le := Nat.zero_le _
  outLen_le := Nat.zero_le _
  entry_legal := fun i h => absurd h (Nat.not_lt_zero i)
  entry_zero := fun _ _ => rfl
  out_zero := fun _ _ => rfl
  lanes_canonical := canonical_zeroLanes hp
  out_canonical := fun _ => hp.prime.pos
  pat_wf := rfl
  out_wf := rfl
  cleared := fun _ => ⟨rfl, rfl, rfl, rfl, rfl, rfl, fun i _ => getElem_zeroLanes i⟩

theorem archInv_clearAll {p : Params} (hp : p.Valid) (a : Arch) : ArchInv p (clearAll a) :=
  archInv_cleared hp a.fault

theorem archInv_reset {p : Params} (hp : p.Valid) : ArchInv p Arch.reset := archInv_cleared hp .ok

/-- A change of the lanes and the cursors of a live engine keeps the invariant, the lanes staying
canonical. -/
theorem archInv_lanes {p : Params} {a : Arch} (h : ArchInv p a) (hlive : a.ioCount < a.patternLen)
    {l : Lanes} (hl : p.CanonicalLanes l) (apos spos : Cursor) :
    ArchInv p { a with lanes := l, absorbPos := apos, squeezePos := spos } where
  ioCount_le := h.ioCount_le
  patternLen_le := h.patternLen_le
  outLen_le := h.outLen_le
  entry_legal := h.entry_legal
  entry_zero := h.entry_zero
  out_zero := h.out_zero
  lanes_canonical := hl
  out_canonical := h.out_canonical
  pat_wf := h.pat_wf
  out_wf := h.out_wf
  cleared := fun h0 => by
    have : a.patternLen = 0 := h0
    omega

/-- `io_count` moves on by one in a live engine (R18). -/
theorem archInv_advance {p : Params} {a : Arch} (h : ArchInv p a) (hlive : a.ioCount < a.patternLen)
    (spos : Cursor) : ArchInv p { a with ioCount := a.ioCount + 1, squeezePos := spos } where
  ioCount_le := hlive
  patternLen_le := h.patternLen_le
  outLen_le := h.outLen_le
  entry_legal := h.entry_legal
  entry_zero := h.entry_zero
  out_zero := h.out_zero
  lanes_canonical := h.lanes_canonical
  out_canonical := h.out_canonical
  pat_wf := h.pat_wf
  out_wf := h.out_wf
  cleared := fun h0 => by
    have : a.patternLen = 0 := h0
    omega

/-- An element appended to OUT in a live engine with room (R21, R111). -/
theorem archInv_append {p : Params} {a : Arch} (h : ArchInv p a) (hlive : a.ioCount < a.patternLen)
    (hroom : a.outLen < p.outMax) {v : Nat} (hv : v < p.modulus) (spos : Cursor) :
    ArchInv p { a with
      out := Store.write a.out a.outLen v, outLen := a.outLen + 1, squeezePos := spos } where
  ioCount_le := h.ioCount_le
  patternLen_le := h.patternLen_le
  outLen_le := hroom
  entry_legal := h.entry_legal
  entry_zero := h.entry_zero
  out_zero := fun i hi => by
    have hi' : a.outLen + 1 ≤ i := hi
    rw [read_write h.out_wf, if_neg (by omega)]
    exact h.out_zero i (by omega)
  lanes_canonical := h.lanes_canonical
  out_canonical := fun i => by
    rw [read_write h.out_wf]
    split
    · exact hv
    · exact h.out_canonical i
  pat_wf := h.pat_wf
  out_wf := wf_write h.out_wf _ _
  cleared := fun h0 => by
    have : a.patternLen = 0 := h0
    omega

/-- A loaded pattern with its tag (R90): from the cleared state with a store that reads a legal
pattern. -/
theorem archInv_loaded {p : Params} (hp : p.Valid) {m : Store} {n tag : Nat} {c : Status}
    (hm : Store.wf m = true) (hn : n ≤ p.patternMax)
    (hlegal : ∀ i, i < n → 1 ≤ Store.read m i ∧ Store.read m i ≤ 65535)
    (hzero : ∀ i, n ≤ i → Store.read m i = 0) (hempty : n = 0 → m = []) (ht : tag < p.modulus) :
    ArchInv p { Arch.reset with
      pat := m, patternLen := n, lanes := tagLanes zeroLanes tag, fault := c } where
  ioCount_le := Nat.zero_le _
  patternLen_le := hn
  outLen_le := Nat.zero_le _
  entry_legal := hlegal
  entry_zero := hzero
  out_zero := fun _ _ => rfl
  lanes_canonical := canonical_tagLanes (canonical_zeroLanes hp) ht
  out_canonical := fun _ => hp.prime.pos
  pat_wf := hm
  out_wf := rfl
  cleared := fun h0 => ⟨rfl, rfl, rfl, rfl, hempty h0, rfl, fun i hi => by
    have hi' : 1 ≤ i.val := hi
    rw [getElem_tagLanes, if_neg (by omega), getElem_zeroLanes]⟩

/-- A canonical store that reads 0 everywhere lists nothing. -/
theorem eq_nil_of_read_zero {m : Store} (h : Store.wf m = true)
    (hz : ∀ i, Store.read m i = 0) : m = [] := by
  cases m with
  | nil => rfl
  | cons e r =>
    obtain ⟨i, v⟩ := e
    have h' := h
    simp only [Store.wf, Store.wfFrom, Bool.and_eq_true, bne_iff_ne, ne_eq] at h'
    have := hz i
    simp only [Store.read, if_true] at this
    exact absurd this h'.1.2

end Sys2Proof.Laws
end

