-- ==== Sys2Proof/Laws/Commands.lean ====
section
/-! SUPPORT. What each command, and each loop inside one, can do, said once: later proofs cite these
and unfold no meaning. -/

namespace Sys2Proof.Laws

open Sys2Proof Sys2Proof.Machine

/-! ## The loops -/

/-- The element loop of ABSORB touches the lanes, `absorb_pos` and the requests; nothing else (R101,
R107). -/
theorem absorbElems_frame (p : Params) : ∀ (xs : List Nat) (s : State), ∃ l pos asked,
    absorbElems p xs s =
      { s with
        arch := { s.arch with lanes := l, absorbPos := pos }
        ports := { s.ports with preqOut := s.ports.preqOut ++ asked } }
  | [], s => ⟨s.arch.lanes, s.arch.absorbPos, [], by simp [absorbElems]⟩
  | x :: xs, s => by
    rw [absorbElems]
    obtain ⟨l, pos, asked, h⟩ := absorbElems_frame p xs (absorbElem p x s)
    rw [h]
    rcases absorbElem_cases p x s with ⟨i, -, he⟩ | ⟨-, he⟩
    · rw [he]
      exact ⟨l, pos, asked, rfl⟩
    · rw [he]
      refine ⟨l, pos, s.arch.lanes :: asked, ?_⟩
      simp [addElem, permuteForAbsorb, recordRequest]

/-- The element loop of SQUEEZE succeeds where OUT has the room, and touches the lanes, the cursors,
OUT, `out_len` and the requests; nothing else (R111). -/
theorem squeezeElems_frame (p : Params) : ∀ (n : Nat) (s : State), s.arch.outLen + n ≤ p.outMax →
    ∃ l apos spos o asked,
      squeezeElems p n s = .ok
        { s with
          arch := { s.arch with
            lanes := l, absorbPos := apos, squeezePos := spos, out := o
            outLen := s.arch.outLen + n }
          ports := { s.ports with preqOut := s.ports.preqOut ++ asked } }
  | 0, s, _ => ⟨s.arch.lanes, s.arch.absorbPos, s.arch.squeezePos, s.arch.out, [], by
      simp [squeezeElems]⟩
  | n + 1, s, hroom => by
    rcases squeezeElem_cases p s with ⟨i, -, he⟩ | ⟨-, he⟩
    · have hlt : s.arch.outLen < p.outMax := by omega
      rw [takeElem_eq, if_pos hlt] at he
      obtain ⟨l, apos, spos, o, asked, h⟩ := squeezeElems_frame p n (tookElem i s)
        (by simp only [tookElem]; omega)
      refine ⟨l, apos, spos, o, asked, ?_⟩
      simp only [squeezeElems, he, h]
      simp [tookElem, Nat.add_comm, Nat.add_left_comm]
    · have hlt : (permuteForSqueeze p s).arch.outLen < p.outMax := by
        simp only [permuteForSqueeze]; omega
      rw [takeElem_eq, if_pos hlt] at he
      obtain ⟨l, apos, spos, o, asked, h⟩ := squeezeElems_frame p n
        (tookElem firstRateLane (permuteForSqueeze p s))
        (by simp only [tookElem, permuteForSqueeze]; omega)
      refine ⟨l, apos, spos, o, s.arch.lanes :: asked, ?_⟩
      simp only [squeezeElems, he, h]
      simp [tookElem, permuteForSqueeze, recordRequest, Nat.add_comm, Nat.add_left_comm]

/-- What DOUT streams: the elements of OUT in order, the last marked (R72, R154). -/
theorem outWords_eq (a : Arch) : ∀ (n i : Nat),
    outWords a i n =
      (List.range n).map fun k => (Store.read a.out (i + k), decide (k + 1 = n))
  | 0, _ => rfl
  | n + 1, i => by
    rw [outWords, outWords_eq a n (i + 1), List.range_succ_eq_map, List.map_cons, List.map_map]
    congr 1
    · cases n <;> simp
    · apply List.map_congr_left
      intro k _
      simp [Nat.add_assoc, Nat.add_comm 1 k]

/-! ## The commands -/

/-- Everything START can do (R90 to R92, R67). -/
theorem startWith_cases (p : Params) (pattern : List Nat) (tag : Nat) (s : State) :
    (canonicalWord p tag = false ∧ startWith p pattern tag s = .refused .wordNotCanonical) ∨
    (canonicalWord p tag = true ∧ p.patternMax < pattern.length ∧
      startWith p pattern tag s =
        .next (raiseError .start (BitVec.ofNat 16 pattern.length) .capacity (startClear s))) ∨
    (canonicalWord p tag = true ∧ pattern.length ≤ p.patternMax ∧ pattern.all legalEntry = false ∧
      startWith p pattern tag s =
        .next (raiseError .start (BitVec.ofNat 16 pattern.length) .badPattern
          { startClear s with ctrl := { (startClear s).ctrl with wrIdx := firstIllegal pattern } })) ∨
    (canonicalWord p tag = true ∧ pattern.length ≤ p.patternMax ∧ pattern.all legalEntry = true ∧
      startWith p pattern tag s =
        .next (finishCommand .start (BitVec.ofNat 16 pattern.length) .ok
          (startLoad pattern tag (startClear s)))) := by
  unfold startWith startOn
  cases hc : canonicalWord p tag
  · exact .inl ⟨rfl, rfl⟩
  · by_cases hl : p.patternMax < pattern.length
    · exact .inr (.inl ⟨rfl, hl, by simp [hl]⟩)
    · cases ha : pattern.all legalEntry
      · exact .inr (.inr (.inl ⟨rfl, by omega, rfl, by simp [hl]⟩))
      · exact .inr (.inr (.inr ⟨rfl, by omega, rfl, by simp [hl]⟩))

/-- Everything ABSORB can do (R67, R100, R102, R42). -/
theorem absorbWith_cases (p : Params) (input : List Nat) (s : State) :
    (input.all (canonicalWord p) = false ∧ absorbWith p input s = .refused .wordNotCanonical) ∨
    (input.all (canonicalWord p) = true ∧ s.arch.ioCount = s.arch.patternLen ∧
      absorbWith p input s =
        .next (raiseError .absorb (BitVec.ofNat 16 input.length) .patternExhausted s)) ∨
    (input.all (canonicalWord p) = true ∧ s.arch.ioCount ≠ s.arch.patternLen ∧
      p.patternMax ≤ s.arch.ioCount ∧ absorbWith p input s = .fault .patIndex) ∨
    (input.all (canonicalWord p) = true ∧ s.arch.ioCount ≠ s.arch.patternLen ∧
      s.arch.ioCount < p.patternMax ∧ Store.read s.arch.pat s.arch.ioCount ≠ input.length ∧
      absorbWith p input s =
        .next (raiseError .absorb (BitVec.ofNat 16 input.length) .patternMismatch s)) ∨
    (input.all (canonicalWord p) = true ∧ s.arch.ioCount ≠ s.arch.patternLen ∧
      s.arch.ioCount < p.patternMax ∧ Store.read s.arch.pat s.arch.ioCount = input.length ∧
      absorbWith p input s =
        .next (finishCommand .absorb (BitVec.ofNat 16 input.length) .ok
          (absorbDone (absorbElems p input s)))) := by
  unfold absorbWith patRead
  cases hc : input.all (canonicalWord p)
  · exact .inl ⟨rfl, rfl⟩
  · by_cases he : s.arch.ioCount = s.arch.patternLen
    · exact .inr (.inl ⟨rfl, he, by simp [he]⟩)
    · by_cases hi : s.arch.ioCount < p.patternMax
      · by_cases hn : Store.read s.arch.pat s.arch.ioCount = input.length
        · exact .inr (.inr (.inr (.inr ⟨rfl, he, hi, hn, by simp [he, hi, hn]⟩)))
        · exact .inr (.inr (.inr (.inl ⟨rfl, he, hi, hn, by simp [he, hi, hn]⟩)))
      · exact .inr (.inr (.inl ⟨rfl, he, by omega, by simp [he, hi]⟩))

/-- Everything SQUEEZE can do (R110, R112, R42): where its checks pass the loop has the room. -/
theorem squeezeWith_cases (p : Params) (s : State) :
    (s.arch.ioCount = s.arch.patternLen ∧
      squeezeWith p s = .next (raiseError .squeeze 0 .patternExhausted s)) ∨
    (s.arch.ioCount ≠ s.arch.patternLen ∧ p.patternMax ≤ s.arch.ioCount ∧
      squeezeWith p s = .fault .patIndex) ∨
    (s.arch.ioCount ≠ s.arch.patternLen ∧ s.arch.ioCount < p.patternMax ∧
      p.outMax < s.arch.outLen + Store.read s.arch.pat s.arch.ioCount ∧
      squeezeWith p s = .next (raiseError .squeeze 0 .capacity s)) ∨
    (s.arch.ioCount ≠ s.arch.patternLen ∧ s.arch.ioCount < p.patternMax ∧
      s.arch.outLen + Store.read s.arch.pat s.arch.ioCount ≤ p.outMax ∧
      ∃ u, squeezeElems p (Store.read s.arch.pat s.arch.ioCount) s = .ok u ∧
        squeezeWith p s = .next (streamOut (finishCommand .squeeze 0 .ok (squeezeDone u)))) := by
  unfold squeezeWith patRead
  by_cases he : s.arch.ioCount = s.arch.patternLen
  · exact .inl ⟨he, by simp [he]⟩
  · by_cases hi : s.arch.ioCount < p.patternMax
    · by_cases hn : p.outMax < s.arch.outLen + Store.read s.arch.pat s.arch.ioCount
      · exact .inr (.inr (.inl ⟨he, hi, hn, by simp [he, hi, hn]⟩))
      · obtain ⟨l, apos, spos, o, asked, h⟩ := squeezeElems_frame p
          (Store.read s.arch.pat s.arch.ioCount) s (by omega)
        exact .inr (.inr (.inr ⟨he, hi, by omega, _, h, by simp [he, hi, hn, h]⟩))
    · exact .inr (.inl ⟨he, by omega, by simp [he, hi]⟩)

end Sys2Proof.Laws
end

