-- ==== Sys2Proof/Laws/PerInstr.lean ====
section
/-! SUPPORT. The fields of a composed header, and the statements made of every command as syntax, one
lemma per constructor of Instr: what its header says of it. -/

namespace Sys2Proof.Laws

open Sys2Proof

/-- Field `op` of a composed header (R62). -/
theorem hdrOp_mkHeader (op : Op) (len : BitVec LEN_BITS) : hdrOp (mkHeader op len) = op := by
  have h : (mkHeader op len).extractLsb' 0 2 = op.code := by
    unfold mkHeader
    generalize op.code = c
    ext i hi
    simp only [BitVec.getElem_extractLsb', Nat.zero_add]
    rw [BitVec.getLsbD_append]
    simp [hi, BitVec.getLsbD_eq_getElem]
  unfold hdrOp
  rw [h]
  cases op <;> decide

/-- Field `len` of a composed header (R62). -/
theorem hdrLen_mkHeader (op : Op) (len : BitVec LEN_BITS) : hdrLen (mkHeader op len) = len := by
  unfold hdrLen mkHeader
  generalize op.code = c
  ext i hi
  have hi' : i < 16 := hi
  have h1 : ¬(8 + i < 2) := by omega
  have h2 : ¬(8 + i - 2 < 6) := by omega
  have h3 : 8 + i - 2 - 6 = i := by omega
  simp [BitVec.getElem_extractLsb', BitVec.getLsbD_append, h1, h2, h3, hi, BitVec.getLsbD_eq_getElem]

/-- Field `rsv0` of a composed header is 0 (R62, R65). -/
theorem hdrRsv0_mkHeader (op : Op) (len : BitVec LEN_BITS) : hdrRsv0 (mkHeader op len) = 0 := by
  unfold hdrRsv0 mkHeader
  generalize op.code = c
  ext i hi
  have h1 : ¬(2 + i < 2) := by omega
  have h2 : ¬(6 ≤ i) := by omega
  simp [BitVec.getElem_extractLsb', BitVec.getLsbD_append, h1, h2]

/-- Field `rsv1` of a composed header is 0 (R62, R65). -/
theorem hdrRsv1_mkHeader (op : Op) (len : BitVec LEN_BITS) : hdrRsv1 (mkHeader op len) = 0 := by
  unfold hdrRsv1 mkHeader
  generalize op.code = c
  ext i hi
  have h1 : ¬(24 + i < 2) := by omega
  have h2 : ¬(24 + i - 2 < 6) := by omega
  have h3 : ¬(24 + i - 2 - 6 < LEN_BITS) := by simp only [LEN_BITS]; omega
  simp [BitVec.getElem_extractLsb', BitVec.getLsbD_append, h1, h2, h3]

/-- What a well-formed command's header says of it: its opcode, its count, that it is no malformed
header, and that the payload announced is the payload sent (R62, R64 to R66, R68, R69). -/
def HeaderFields.Statement (i : Instr) : Prop :=
  i.wellFormed = true →
    hdrOp (encodeHeader i) = i.op ∧ hdrLen (encodeHeader i) = i.len ∧
      hdrWellFormed (encodeHeader i) = true ∧ paylen (encodeHeader i) = (encodePayload i).length

/-- A count that fits the field is the field's value (R64). -/
theorem toNat_ofNat_len {n : Nat} (h : lenFits n = true) : (BitVec.ofNat 16 n).toNat = n := by
  rw [BitVec.toNat_ofNat]
  exact Nat.mod_eq_of_lt (of_decide_eq_true h)

theorem HeaderFields.start (pattern : List Nat) (tag : Nat) :
    HeaderFields.Statement (.start pattern tag) := fun h => by
  refine ⟨hdrOp_mkHeader _ _, hdrLen_mkHeader _ _, ?_, ?_⟩
  · simp [encodeHeader, hdrWellFormed, hdrOp_mkHeader, hdrRsv0_mkHeader, hdrRsv1_mkHeader, Instr.op]
  · simp only [encodeHeader, paylen, hdrOp_mkHeader, hdrLen_mkHeader, Instr.op, Instr.len]
    rw [toNat_ofNat_len h]
    simp [encodePayload]

theorem HeaderFields.absorb (input : List Nat) :
    HeaderFields.Statement (.absorb input) := fun h => by
  refine ⟨hdrOp_mkHeader _ _, hdrLen_mkHeader _ _, ?_, ?_⟩
  · simp [encodeHeader, hdrWellFormed, hdrOp_mkHeader, hdrRsv0_mkHeader, hdrRsv1_mkHeader, Instr.op]
  · simp only [encodeHeader, paylen, hdrOp_mkHeader, hdrLen_mkHeader, Instr.op, Instr.len]
    rw [toNat_ofNat_len h]
    rfl

theorem HeaderFields.squeeze : HeaderFields.Statement .squeeze := fun _ =>
  ⟨by decide, by decide, by decide, by decide⟩

theorem HeaderFields.finish : HeaderFields.Statement .finish := fun _ =>
  ⟨by decide, by decide, by decide, by decide⟩

end Sys2Proof.Laws
end

