-- ==== Sys2Proof/Laws/Ports.lean ====
section
/-! SUPPORT. What the ports' widths and the fetch of a command can do, said once: the words `din_data`
carries (R60), the fields of `prsp_state` (R126), and the command taken from the host (R62, R66). -/

namespace Sys2Proof.Laws

open Sys2Proof Sys2Proof.Machine

theorem fitsBus_iff (p : Params) (w : Nat) : fitsBus p w = true ↔ w < 2 ^ fieldBits p := by
  have h := Nat.two_pow_pos (fieldBits p)
  simp only [fitsBus, Bool.or_eq_true, beq_iff_eq, decide_eq_true_eq]
  omega

theorem busWord_of_lt {p : Params} {w : Nat} (h : w < 2 ^ fieldBits p) :
    busWord p w = some (BitVec.ofNat (fieldBits p) w) := if_pos ((fitsBus_iff p w).2 h)

theorem busWord_of_le {p : Params} {w : Nat} (h : 2 ^ fieldBits p ≤ w) : busWord p w = none :=
  if_neg fun hf => Nat.not_lt.2 h ((fitsBus_iff p w).1 hf)

theorem laneField_eq (p : Params) (w : StateWord p) (i : Nat) :
    laneField p w i = w.toNat / 2 ^ (i * fieldBits p) % 2 ^ fieldBits p := by
  simp [laneField, Nat.shiftRight_eq_div_pow]

theorem unpackLanes_getElem (p : Params) (w : StateWord p) (i : Fin WIDTH) :
    (unpackLanes p w)[i] = w.toNat / 2 ^ (i.val * fieldBits p) % 2 ^ fieldBits p := by
  rw [← laneField_eq]
  obtain rfl | rfl | rfl | rfl : i = 0 ∨ i = 1 ∨ i = 2 ∨ i = 3 :=
    (by decide : ∀ j : Fin 4, j = 0 ∨ j = 1 ∨ j = 2 ∨ j = 3) i
  all_goals rfl

theorem presented_iff (p : Params) (n : Nat) (din : List Nat) :
    presented p n din = true ↔ n ≤ din.length ∧ ∀ w ∈ din.take n, w < 2 ^ fieldBits p := by
  simp only [presented, Bool.and_eq_true, decide_eq_true_eq, List.all_eq_true, fitsBus_iff]

/-- A command offered whole is fetched as it decodes. -/
theorem fetch_offered {p : Params} {h : Header} {s : State} (ho : Offered p h s) :
    fetch p s =
      match decode h s.ports.dinIn with
      | .ok (i, rest) => .command i (taken rest s)
      | .error _ => .malformed h (taken (s.ports.dinIn.drop (paylen h)) s) := by
  obtain ⟨hph, hs, hc, hw⟩ := ho
  obtain ⟨more, hm⟩ : ∃ more, s.ports.cmdIn = h :: more := by
    cases hl : s.ports.cmdIn with
    | nil => simp [hl] at hc
    | cons a as => exact ⟨as, by simpa [hl] using hc⟩
  have hp : presented p (paylen h) s.ports.dinIn = true := (presented_iff p _ _).2 hw
  rw [fetch, if_pos ⟨hph, hs⟩, hm]
  dsimp only
  rw [hp]
  cases decode h s.ports.dinIn <;> rfl

/-- What a fetch can answer: an edge, or, in IDLE, a command or a malformed header whose words the host no
longer has to send. -/
theorem fetch_cases (p : Params) (s : State) :
    fetch p s = .edge ∨ ∃ h more, s.ctrl.phase = .idle ∧ serving s.ports = true ∧
      s.ports.cmdIn = h :: more ∧ presented p (paylen h) s.ports.dinIn = true ∧
      ((∃ i rest, decode h s.ports.dinIn = .ok (i, rest) ∧ fetch p s = .command i (taken rest s)) ∨
        fetch p s = .malformed h (taken (s.ports.dinIn.drop (paylen h)) s)) := by
  by_cases hi : s.ctrl.phase = .idle ∧ serving s.ports = true
  · cases hc : s.ports.cmdIn with
    | nil => left; rw [fetch, if_pos hi, hc]
    | cons h more =>
      by_cases hp : presented p (paylen h) s.ports.dinIn = true
      · right
        refine ⟨h, more, hi.1, hi.2, rfl, hp, ?_⟩
        have ho : Offered p h s := ⟨hi.1, hi.2, by rw [hc]; rfl, (presented_iff p _ _).1 hp⟩
        rw [fetch_offered ho]
        cases hd : decode h s.ports.dinIn with
        | error e => exact .inr rfl
        | ok a => exact .inl ⟨a.1, a.2, rfl, rfl⟩
      · left
        rw [fetch, if_pos hi, hc]
        simp only [hp, Bool.not_false, if_true]
  · left; rw [fetch, if_neg hi]

end Sys2Proof.Laws
end

