-- ==== Sys2Proof/Tests/Slice0.lean ====
section
/-! SUPPORT. Tests. Expected results come from spec/95_test_vectors.md (the vector is named in each
docstring) and from the encodings of spec/30_encoding.md. The second half shows, for each statement with
hypotheses, states and operands that meet them. -/

namespace Sys2Proof.Tests

open Sys2Proof Sys2Proof.Machine Sys2Proof.Laws

/-! ## The toy fixture of spec/95_test_vectors.md -/

/-- TOY. -/
def toyPermute (l : Lanes) : Lanes :=
  #v[(l[3] + 1) % 101, (l[0] + l[3]) % 101, (l[1] + l[0]) % 101, (l[2] + l[1]) % 101]

/-- `P = 101` with TOY and the default sizes. -/
def toy : Params := { modulus := 101, permute := toyPermute }

theorem toy_valid : toy.Valid where
  prime := by norm_num [toy]
  patternMax_pos := by decide
  patternMax_le := by decide
  outMax_pos := by decide
  outMax_le := by decide
  permute_canonical := fun l _ i => by
    have h : ∀ n : Nat, n % 101 < 101 := fun n => Nat.mod_lt n (by decide)
    have hi : i = 0 ∨ i = 1 ∨ i = 2 ∨ i = 3 := 
      (by decide : ∀ j : Fin 4, j = 0 ∨ j = 1 ∨ j = 2 ∨ j = 3) i
    rcases hi with rfl | rfl | rfl | rfl
    · exact h (l[3] + 1)
    · exact h (l[0] + l[3])
    · exact h (l[1] + l[0])
    · exact h (l[2] + l[1])

/-- An engine in the middle of a transcript. -/
def engine (lanes : Lanes) (pat : Store) (patternLen ioCount : Nat) (apos spos : Cursor) (out : Store)
    (outLen : Nat) (fault : Status) : State :=
  { State.reset with
    arch := ⟨lanes, pat, patternLen, ioCount, apos, spos, out, outLen, fault⟩ }

/-- The answer is a next state that passes the test. -/
def lands (r : Result) (f : State → Bool) : Bool :=
  match r with
  | .next s => f s
  | .fault _ => false
  | .refused _ => false

/-- The header and payload words on offer to an engine. -/
def offered (h : Header) (din : List Nat) (s : State) : State :=
  { s with ports := { s.ports with cmdIn := [h], dinIn := din } }

/-! ## Well-formedness: one ill-formed command for each check -/

theorem test_overlong_pattern_is_ill_formed :
    (Instr.start (List.replicate 65536 1) 0).wellFormed = false  := by
  rw [Instr.wellFormed, List.length_replicate]
  decide

theorem test_overlong_message_is_ill_formed :
    (Instr.absorb (List.replicate 65536 1)).wellFormed = false  := by
  rw [Instr.wellFormed, List.length_replicate]
  decide

theorem test_tag_out_of_contract : inContract toy (.start [1] 101) = false := by decide

theorem test_message_out_of_contract : inContract toy (.absorb [100, 101]) = false := by decide

/-! ## Decoding: headers written out field by field, `rsv1 len rsv0 op` (R62, R63) -/

theorem test_decode_start :
    decode (0b00000000#8 ++ 0b0000000000000010#16 ++ 0b000000#6 ++ 0b00#2) [3, 2, 7, 8] =
      .ok (.start [3, 2] 7, [8]) := by decide

theorem test_decode_absorb :
    decode (0b00000000#8 ++ 0b0000000000000011#16 ++ 0b000000#6 ++ 0b01#2) [1, 2, 3, 4] =
      .ok (.absorb [1, 2, 3], [4]) := by decide

theorem test_decode_squeeze :
    decode (0b00000000#8 ++ 0b0000000000000000#16 ++ 0b000000#6 ++ 0b10#2) [6] =
      .ok (.squeeze, [6]) := by decide

theorem test_decode_finish :
    decode (0b00000000#8 ++ 0b0000000000000000#16 ++ 0b000000#6 ++ 0b11#2) [6] =
      .ok (.finish, [6]) := by decide

/-- Q9 and F5: a count on SQUEEZE or FINISH; S9: `rsv0` not 0; R62: `rsv1` not 0. -/
theorem test_decode_malformed :
    decode 0x00000103#32 [] = .error .lenNotZero ∧
    decode 0x000000fe#32 [] = .error .reservedLow ∧
    decode 0x80000000#32 [5] = .error .reservedHigh := by decide

theorem test_table_words :
    decodeTableWord 32 0 = some (.start [] 0) ∧ decodeTableWord 32 1 = some (.absorb []) ∧
    decodeTableWord 32 2 = some .squeeze ∧ decodeTableWord 32 3 = some .finish ∧
    decodeTableWord 32 0x102 = none := by decide

/-! ## The commands, one step each -/

/-- S1. -/
theorem test_start_loads :
    lands (execWith toy (.start [3, 2] 7) State.reset) (fun t =>
      t.arch == ⟨#v[7, 0, 0, 0], [(0, 3), (1, 2)], 2, 0, 0, 0, [], 0, .ok⟩) = true := by decide

/-- S3 and S4: from a live engine, a zero entry leaves the cleared state. -/
theorem test_start_bad_pattern_clears :
    lands (execWith toy (.start [3, 0, 2] 5)
        (engine #v[1, 5, 6, 3] [(0, 2), (1, 1)] 2 2 0 1 [(0, 5)] 1 .patternMismatch)) (fun t =>
      t.arch == { Arch.reset with fault := .badPattern } &&
      t.ports.rspOut == [0x00000003#32]) = true := by decide

/-- A2. -/
theorem test_absorb_crosses_the_rate :
    lands (execWith toy (.absorb [1, 2, 3, 4, 5])
        (engine #v[7, 0, 0, 0] [(0, 5), (1, 4)] 2 0 0 0 [] 0 .ok)) (fun t =>
      t.arch.lanes == #v[4, 14, 13, 3] && t.arch.absorbPos == 2 && t.arch.squeezePos == 3 &&
      t.arch.ioCount == 1 && t.ports.preqOut == [#v[7, 1, 2, 3]]) = true := by decide

/-- A5: the sum wraps, and the boundary falls inside the message. -/
theorem test_absorb_wraps :
    lands (execWith toy (.absorb [1, 100])
        (engine #v[100, 100, 100, 0] [(0, 2), (1, 2)] 2 1 2 3 [] 0 .ok)) (fun t =>
      t.arch.lanes == #v[2, 100, 99, 99] && t.arch.absorbPos == 1) = true := by decide

/-- Q2. -/
theorem test_squeeze_crosses_the_rate :
    lands (execWith toy .squeeze
        (engine #v[4, 14, 13, 3] [(0, 5), (1, 4)] 2 1 2 3 [] 0 .ok)) (fun t =>
      t.ports.doutOut == [(7, false), (18, false), (27, false), (31, true)] &&
      t.arch.lanes == #v[28, 31, 11, 25] && t.arch.squeezePos == 1 && t.arch.absorbPos == 0 &&
      t.ports.rspOut == [0x02000400#32]) = true := by decide

/-- Q5: the result is cumulative. -/
theorem test_squeeze_is_cumulative :
    lands (execWith toy .squeeze
        (engine #v[31, 61, 9, 98] [(0, 3), (1, 1), (2, 2), (3, 2), (4, 1)] 5 3 0 2
          [(0, 61), (1, 9)] 2 .ok)) (fun t =>
      t.ports.doutOut == [(61, false), (9, false), (98, false), (28, true)] &&
      t.arch.lanes == #v[99, 28, 92, 70]) = true := by decide

/-- F4. -/
theorem test_finish_keeps_fault :
    lands (execWith toy .finish
        (engine #v[1, 5, 6, 3] [(0, 2), (1, 1)] 2 1 2 3 [(0, 5)] 1 .patternExhausted)) (fun t =>
      t.arch == { Arch.reset with fault := .patternExhausted } &&
      t.ports.rspOut == [0x03000000#32]) = true := by decide

/-- S9: BadCommand from a live engine: nothing changes, the first error stays, the payload is gone. -/
theorem test_malformed_start_is_drained :
    lands (stepBy (execWith toy) toy (offered 0x00000204#32 [3, 2, 7, 9]
        (engine #v[1, 5, 6, 3] [(0, 2), (1, 1)] 2 2 0 1 [(0, 5)] 1 .patternMismatch))) (fun t =>
      t.arch == ⟨#v[1, 5, 6, 3], [(0, 2), (1, 1)], 2, 2, 0, 1, [(0, 5)], 1, .patternMismatch⟩ &&
      t.ports.dinIn == [9] && t.ports.rspOut == [0x00000005#32]) = true := by decide

/-- P1: the request the permutation unit is sent. -/
theorem test_pack_lanes : packLanes toy #v[7, 1, 2, 3] = 0x608087 := by decide

/-- R60: FIELD_BITS of `P = 101` is 7, so `din_data` carries 100, and 128 is no word of it. -/
theorem test_bus_width :
    fieldBits toy = 7 ∧ busWord toy 100 = some 100 ∧ busWord toy 128 = none := by decide

/-- Two of the four rows of the opcode table as the first instruction after reset. -/
theorem test_step_runs_the_word_offered :
    lands (step (State.reset.withFetchWord 32 2)) (fun t => t.ports.rspOut == [0x02000002#32]) = true ∧
    lands (step (State.reset.withFetchWord 32 3)) (fun t => t.ports.rspOut == [0x03000000#32]) = true := by
  decide

/-- The canonical form of a store: order, and no zero. -/
theorem test_store_form :
    Store.wf [(0, 3), (1, 2)] = true ∧ Store.wf [(1, 2), (0, 3)] = false ∧
    Store.wf [(0, 0)] = false ∧ Store.write [(0, 3), (1, 2)] 0 0 = [(1, 2)] ∧
    Store.write [(1, 2)] 0 3 = [(0, 3), (1, 2)] := by decide

/-! ## States and operands that meet the hypotheses of the statements

`Config.hw` fixes no value of `P`, PATTERN_MAX and OUT_MAX, so its witnesses use what every value allows:
the word 0 and the word `P - 1`, patterns of one entry and of PATTERN_MAX entries. -/

theorem modulus_pos : 0 < Config.hw.modulus := hw_valid.prime.pos

/-- An engine with the pattern `[1]`, nothing done yet. -/
def live : State := engine #v[0, 0, 0, 0] [(0, 1)] 1 0 0 0 [] 0 .ok

/-- A header with a payload of zeros, which every bus carries, on offer to `live`. -/
theorem offered_zeros (h : Header) (n : Nat) (hn : paylen h ≤ n) :
    Offered Config.hw h (offered h (List.replicate n 0) live) := by
  refine ⟨rfl, rfl, rfl, by simpa [offered] using hn, fun w hw => ?_⟩
  have h0 : w = 0 := (List.mem_replicate.1 (List.mem_of_mem_take hw)).2
  exact h0 ▸ Nat.two_pow_pos _

/-- The engine `live` in another phase of the controller. -/
def inPhase (c : Ctrl) (s : State) : State := { s with ctrl := c }

/-! ### Encoding -/

theorem witness_DecodeEncodeAgree :
    (Instr.start [5, 4] 7).wellFormed = true ∧ Instr.squeeze.wellFormed = true ∧
    (Instr.absorb (List.replicate 65535 1)).wellFormed = true := by
  refine ⟨by decide, rfl, ?_⟩
  rw [Instr.wellFormed, List.length_replicate]
  decide

theorem witness_EncodeDecodeAgree :
    decode 0x00000200#32 [65535, 0, 7, 8] = .ok (.start [65535, 0] 7, [8]) := by decide

theorem witness_OpcodeRowsDecideTheHeader :
    hdrWellFormed 0x00ffff01#32 = true ∧ hdrWellFormed 0x00000102#32 = false ∧
    0x00ffff00#32 &&& 0xFF0000FF#32 = 0x00000000#32 ∧
    0x00ffff01#32 &&& 0xFF0000FF#32 = 0x00000001#32 := by decide

theorem witness_EveryCommandConsumesItsPayload :
    Offered Config.hw 0x00000003#32 (offered 0x00000003#32 [] live) ∧
    (∃ t, step (offered 0x00000003#32 [] live) = .next t) ∧
    Offered Config.hw 0x00000102#32 (offered 0x00000102#32 [] live) ∧
    ∃ t, step (offered 0x00000102#32 [] live) = .next t :=
  ⟨offered_zeros _ 0 (by decide), ⟨_, rfl⟩, offered_zeros _ 0 (by decide), ⟨_, rfl⟩⟩

theorem toy_canonical {l : Lanes} (h : canonicalLanes toy l = true) : toy.CanonicalLanes l :=
  (canonicalLanes_iff toy_valid l).1 h

theorem witness_LanePackingRoundTrip :
    toy.Valid ∧ toy.CanonicalLanes #v[7, 1, 0, 100] := ⟨toy_valid, toy_canonical (by decide)⟩

theorem witness_ResponseWordLayout : (0 : Nat) < 65536 ∧ (65535 : Nat) < 65536 := by decide

/-! ### START -/

theorem witness_StartLoadsPatternAndTag :
    Config.hw.modulus - 1 < Config.hw.modulus ∧
    ([] : List Nat).length ≤ Config.hw.patternMax ∧ [65535].length ≤ Config.hw.patternMax ∧
    (∀ v ∈ [65535], 1 ≤ v ∧ v < 65536) ∧
    (List.replicate Config.hw.patternMax 1).length ≤ Config.hw.patternMax ∧
    ∀ v ∈ List.replicate Config.hw.patternMax 1, 1 ≤ v ∧ v < 65536 := by
  have h := modulus_pos
  have h2 := hw_valid.patternMax_pos
  refine ⟨by omega, Nat.zero_le _, h2, by simp, by rw [List.length_replicate], ?_⟩
  intro v hv
  rw [List.eq_of_mem_replicate hv]
  omega

theorem witness_FailedStartLeavesClearedState :
    0 < Config.hw.modulus ∧
    Config.hw.patternMax < (List.replicate (Config.hw.patternMax + 1) 1).length ∧
    (∃ v ∈ [0], v = 0 ∨ 65536 ≤ v) ∧ ∃ v ∈ [65536], v = 0 ∨ 65536 ≤ v := by
  refine ⟨modulus_pos, ?_, ⟨0, by simp, .inl rfl⟩, ⟨65536, by simp, .inr (Nat.le_refl _)⟩⟩
  rw [List.length_replicate]
  exact Nat.lt_succ_self _

theorem witness_StartAcceptedInEveryState : 0 < Config.hw.modulus := modulus_pos

/-! ### ABSORB -/

/-- `live` with the cursors elsewhere. -/
def withCursors (apos spos : Cursor) (s : State) : State :=
  { s with arch := { s.arch with absorbPos := apos, squeezePos := spos } }

theorem witness_AbsorbElementRule :
    (withCursors 2 0 live).arch.absorbPos.val < 3 ∧ (withCursors 3 0 live).arch.absorbPos.val = 3 := by
  decide

/-- The pattern's last entry in a full store, to be absorbed next. -/
def lastEntry : State :=
  engine #v[0, 0, 0, 0] [(Config.hw.patternMax - 1, 1)] Config.hw.patternMax (Config.hw.patternMax - 1)
    0 0 [] 0 .ok

theorem witness_AbsorbRunsTheElementLoop :
    (∀ x ∈ [Config.hw.modulus - 1], x < Config.hw.modulus) ∧
    live.arch.ioCount ≠ live.arch.patternLen ∧ live.arch.ioCount < Config.hw.patternMax ∧
    Store.read live.arch.pat live.arch.ioCount = [Config.hw.modulus - 1].length ∧
    lastEntry.arch.ioCount ≠ lastEntry.arch.patternLen ∧
    lastEntry.arch.ioCount < Config.hw.patternMax ∧
    Store.read lastEntry.arch.pat lastEntry.arch.ioCount = [Config.hw.modulus - 1].length := by
  have h := modulus_pos
  have h2 := hw_valid.patternMax_pos
  refine ⟨?_, by decide, h2, rfl, ?_, ?_, ?_⟩
  · intro x hx
    rw [List.mem_singleton] at hx
    omega
  · show Config.hw.patternMax - 1 ≠ Config.hw.patternMax
    omega
  · show Config.hw.patternMax - 1 < Config.hw.patternMax
    omega
  · simp [lastEntry, engine, Store.read]

/-- ABSORB succeeds on `live`. -/
theorem absorb_live :
    exec (.absorb [0]) live =
      .next (finishCommand .absorb 1 .ok (absorbDone (absorbElems Config.hw [0] live))) := by
  rcases absorbWith_cases Config.hw [0] live with
    ⟨h, -⟩ | ⟨-, h, -⟩ | ⟨-, -, h, -⟩ | ⟨-, -, -, h, -⟩ | ⟨-, -, -, -, h⟩
  · exact absurd h (by decide)
  · exact absurd h (by decide)
  · exact absurd hw_valid.patternMax_pos (Nat.not_le.2 (Nat.lt_succ_of_le h))
  · exact absurd rfl h
  · exact h

/-- SQUEEZE succeeds on `live` wherever the cursors stand. -/
theorem squeeze_live (apos spos : Cursor) :
    ∃ u, squeezeElems Config.hw 1 (withCursors apos spos live) = .ok u ∧
      exec .squeeze (withCursors apos spos live) =
        .next (streamOut (finishCommand .squeeze 0 .ok (squeezeDone u))) := by
  rcases squeezeWith_cases Config.hw (withCursors apos spos live) with
    ⟨h, -⟩ | ⟨-, h, -⟩ | ⟨-, -, h, -⟩ | ⟨-, -, -, u, h, h'⟩
  · exact absurd h (show ¬(0 = 1) by decide)
  · exact absurd hw_valid.patternMax_pos (Nat.not_le.2 (Nat.lt_succ_of_le h))
  · exact absurd hw_valid.outMax_pos (Nat.not_le.2 h)
  · exact ⟨u, h, h'⟩

theorem witness_AbsorbPermutationCount :
    [0] ≠ ([] : List Nat) ∧ ∃ t, exec (.absorb [0]) live = .next t ∧ t.ctrl.pend = .ok :=
  ⟨by decide, _, absorb_live, rfl⟩

theorem witness_CapacityLaneOnlyPermuted : ∃ t, exec (.absorb [0]) live = .next t := ⟨_, absorb_live⟩

theorem witness_AbsorbErrorsChangeOnlyFault :
    (∀ x ∈ [0], x < Config.hw.modulus) ∧
    State.reset.arch.ioCount = State.reset.arch.patternLen ∧
    live.arch.ioCount ≠ live.arch.patternLen ∧ live.arch.ioCount < Config.hw.patternMax ∧
    Store.read live.arch.pat live.arch.ioCount ≠ [0, 0].length :=
  ⟨fun x hx => by rw [List.mem_singleton.1 hx]; exact modulus_pos, rfl, by decide,
    hw_valid.patternMax_pos, by decide⟩

/-! ### SQUEEZE -/

/-- `live` with `n` elements counted in OUT. -/
def withOutLen (n : Nat) (s : State) : State := { s with arch := { s.arch with outLen := n } }

theorem witness_SqueezeElementRule :
    Store.wf live.arch.out = true ∧ live.arch.outLen < Config.hw.outMax ∧
    (withOutLen (Config.hw.outMax - 1) live).arch.outLen < Config.hw.outMax ∧
    (withCursors 0 2 live).arch.squeezePos.val < 3 ∧
    (withCursors 0 3 live).arch.squeezePos.val = 3 := by
  have h := hw_valid.outMax_pos
  refine ⟨rfl, h, ?_, by decide, by decide⟩
  show Config.hw.outMax - 1 < Config.hw.outMax
  omega

theorem witness_SqueezeRunsTheElementLoop :
    live.arch.ioCount ≠ live.arch.patternLen ∧ live.arch.ioCount < Config.hw.patternMax ∧
    Store.read live.arch.pat live.arch.ioCount = 1 ∧ live.arch.outLen + 1 ≤ Config.hw.outMax ∧
    (withOutLen (Config.hw.outMax - 1) live).arch.outLen + 1 ≤ Config.hw.outMax ∧
    Store.wf live.arch.out = true := by
  have h := hw_valid.outMax_pos
  refine ⟨by decide, hw_valid.patternMax_pos, rfl, h, ?_, rfl⟩
  show Config.hw.outMax - 1 + 1 ≤ Config.hw.outMax
  omega

theorem witness_SqueezePermutationCount :
    ∃ t, Store.read (withCursors 0 3 live).arch.pat (withCursors 0 3 live).arch.ioCount = 1 ∧
      exec .squeeze (withCursors 0 3 live) = .next t ∧ t.ctrl.pend = .ok := by
  obtain ⟨u, -, h⟩ := squeeze_live 0 3
  exact ⟨_, rfl, h, rfl⟩

theorem witness_SqueezeErrorsChangeOnlyFault :
    State.reset.arch.ioCount = State.reset.arch.patternLen ∧
    live.arch.ioCount ≠ live.arch.patternLen ∧ live.arch.ioCount < Config.hw.patternMax ∧
    Config.hw.outMax < (withOutLen Config.hw.outMax live).arch.outLen +
      Store.read live.arch.pat live.arch.ioCount ∧
    (withOutLen (Config.hw.outMax - 1) live).arch.outLen +
      Store.read live.arch.pat live.arch.ioCount = Config.hw.outMax :=
  ⟨rfl, by decide, hw_valid.patternMax_pos, Nat.lt_succ_self _,
    Nat.sub_add_cancel hw_valid.outMax_pos⟩

theorem witness_SqueezeOutputIsCumulative :
    ∃ t, Store.wf (withCursors 0 3 live).arch.out = true ∧
      exec .squeeze (withCursors 0 3 live) = .next t ∧ t.ctrl.pend = .ok := by
  obtain ⟨u, -, h⟩ := squeeze_live 0 3
  exact ⟨_, rfl, h, rfl⟩

/-- Q3's start state, and the fewest elements that permute. -/
theorem witness_SqueezeFirstReadsZeros :
    toy.Valid ∧ (4 : Nat) ≤ toy.outMax ∧
    ∃ t, execWith toy (.start [4, 2] 5) State.reset = .next t ∧ t.ctrl.pend = .ok :=
  ⟨toy_valid, by decide, _, rfl, rfl⟩

/-- A1's start state. -/
def beforeA1 : State := engine #v[7, 0, 0, 0] [(0, 3), (1, 2)] 2 0 0 0 [] 0 .ok

theorem witness_AbsorbedDataIsPermutedBeforeOutput :
    toy.Valid ∧ Store.wf beforeA1.arch.out = true ∧
    ∃ t u, execWith toy (.absorb [1, 2, 3]) beforeA1 = .next t ∧ t.ctrl.pend = .ok ∧
      1 ≤ Store.read t.arch.pat t.arch.ioCount ∧
      execWith toy .squeeze t = .next u ∧ u.ctrl.pend = .ok :=
  ⟨toy_valid, rfl, _, _, rfl, rfl, by decide, rfl, rfl⟩

/-- A11: the state before its SQUEEZE. -/
def beforeA11 : State := engine #v[5, 0, 0, 0] [(0, 4), (1, 2)] 2 0 0 0 [] 0 .ok

theorem witness_AbsorbAfterSqueezeDoesNotPermuteAgain :
    toy.Valid ∧ [100, 100].length ≤ 3 ∧
    ∃ t u, execWith toy .squeeze beforeA11 = .next t ∧ t.ports.preqOut ≠ beforeA11.ports.preqOut ∧
      execWith toy (.absorb [100, 100]) t = .next u ∧ u.ctrl.pend = .ok :=
  ⟨toy_valid, by decide, _, _, rfl, by decide, rfl, rfl⟩

/-! ### Frames, errors, the step -/

theorem witness_FinishedEngineIsExhausted :
    (∃ t, exec .finish live = .next t) ∧ ∀ x ∈ [0], x < Config.hw.modulus :=
  ⟨⟨_, rfl⟩, fun x hx => by rw [List.mem_singleton.1 hx]; exact modulus_pos⟩

/-- START succeeds with the pattern `[]` and the tag 0. -/
theorem start_reset :
    exec (.start [] 0) State.reset =
      .next (finishCommand .start 0 .ok (startLoad [] 0 (startClear State.reset))) := by
  rcases startWith_cases Config.hw [] 0 State.reset with
    ⟨h, -⟩ | ⟨-, h, -⟩ | ⟨-, -, h, -⟩ | ⟨-, -, -, h⟩
  · exact absurd h (by decide)
  · exact absurd h (Nat.not_lt_zero _)
  · exact absurd h (by decide)
  · exact h

theorem witness_CommandFrames :
    (∃ t, exec (.absorb [0]) live = .next t) ∧
    (∃ t, exec .squeeze (withCursors 0 0 live) = .next t ∧ Store.wf live.arch.out = true ∧
      ¬(live.arch.outLen ≤ t.arch.outLen ∧ t.arch.outLen < t.arch.outLen)) ∧
    (∃ t, exec (.start [] 0) State.reset = .next t) ∧ ∃ t, exec .finish live = .next t := by
  obtain ⟨u, -, h⟩ := squeeze_live 0 0
  exact ⟨⟨_, absorb_live⟩, ⟨_, h, rfl, fun hh => Nat.lt_irrefl _ hh.2⟩, ⟨_, start_reset⟩, ⟨_, rfl⟩⟩

/-- The pins of a reset edge. -/
def resetPins : Pins Config.hw := { silentPins Config.hw with rst := true }

theorem witness_IoCountMoves :
    (∃ t, exec (.absorb [0]) live = .next t) ∧ resetPins.rst = true ∧
    ∃ t, clockEdge Config.hw resetPins live = .next t := ⟨⟨_, absorb_live⟩, rfl, _, rfl⟩

theorem witness_OutcomesInTheOrderOfTheTests :
    (∃ t, exec (.start [] 0) State.reset = .next t) ∧ (∃ t, exec (.absorb [0]) live = .next t) ∧
    (∃ t, exec .squeeze (withCursors 0 0 live) = .next t) ∧ (∃ t, exec .finish live = .next t) ∧
    Offered Config.hw 0x00000204#32 (offered 0x00000204#32 [0, 0, 0] live) ∧
    hdrWellFormed 0x00000204#32 = false ∧
    ∃ t, step (offered 0x00000204#32 [0, 0, 0] live) = .next t := by
  obtain ⟨u, -, h⟩ := squeeze_live 0 0
  exact ⟨⟨_, start_reset⟩, ⟨_, absorb_live⟩, ⟨_, h⟩, ⟨_, rfl⟩, offered_zeros _ 3 (by decide),
    by decide, ⟨_, rfl⟩⟩

/-- A squeeze on an engine after reset ends in PatternExhausted (Q10). -/
theorem witness_ErrorsChangeOnlyFault :
    (∃ t, exec .squeeze State.reset = .next t ∧ t.ctrl.pend ≠ .ok ∧ Instr.squeeze.op ≠ .start) ∧
    (∃ t, exec (.start [0] 0) State.reset = .next t ∧ t.ctrl.pend ≠ .ok) ∧
    ∃ t, execMalformed 0x00000007#32 live = .next t := by
  refine ⟨⟨_, rfl, by decide, by decide⟩, ?_, ⟨_, rfl⟩⟩
  rcases startWith_cases Config.hw [0] 0 State.reset with
    ⟨h, -⟩ | ⟨-, -, h⟩ | ⟨-, -, -, h⟩ | ⟨-, -, h, -⟩
  · exact absurd h (by decide)
  · exact ⟨_, h, by simp⟩
  · exact ⟨_, h, by simp⟩
  · exact absurd h (by decide)

theorem witness_FaultKeepsTheFirstError :
    (∃ t, exec .squeeze State.reset = .next t) ∧ ∃ t, execMalformed 0x00000007#32 live = .next t :=
  ⟨⟨_, rfl⟩, ⟨_, rfl⟩⟩

theorem witness_EveryCommandRespondsOnce :
    (∃ t, exec .squeeze State.reset = .next t ∧ t.ctrl.pend ≠ .ok) ∧
    ∃ t, execMalformed 0x00000007#32 live = .next t := ⟨⟨_, rfl, by decide⟩, ⟨_, rfl⟩⟩

theorem witness_FaultGatesNothing : ∃ t, exec (.absorb [0]) live = .next t := ⟨_, absorb_live⟩

theorem witness_NonCanonicalWordsAreRefused :
    Config.hw.modulus ≤ Config.hw.modulus ∧ Config.hw.modulus ∈ [0, Config.hw.modulus] :=
  ⟨Nat.le_refl _, by simp⟩

theorem witness_StepRunsTheDecodedCommand :
    (offered 0x00000101#32 [0, 5] live).ctrl.phase = .idle ∧
    serving (offered 0x00000101#32 [0, 5] live).ports = true ∧
    (offered 0x00000101#32 [0, 5] live).ports.cmdIn = [0x00000101#32] ∧
    decode 0x00000101#32 (offered 0x00000101#32 [0, 5] live).ports.dinIn = .ok (.absorb [0], [5]) ∧
    ∀ w ∈ (offered 0x00000101#32 [0, 5] live).ports.dinIn.take (paylen 0x00000101#32),
      w < 2 ^ fieldBits Config.hw :=
  ⟨rfl, rfl, rfl, by decide, fun w hw => (List.mem_singleton.1 hw : w = 0) ▸ Nat.two_pow_pos _⟩

theorem witness_MalformedHeaderIsBadCommand :
    Offered Config.hw 0x00000204#32 (offered 0x00000204#32 [0, 0, 0] live) ∧
    hdrWellFormed 0x00000204#32 = false := ⟨offered_zeros _ 3 (by decide), by decide⟩

theorem witness_ResetEdgeWinsInEveryPhase : resetPins.rst = true := rfl

/-! ### The invariant and the phases -/

/-- The architectural invariant of `live` (R26), wherever the cursors stand. -/
theorem archInv_live (apos spos : Cursor) : ArchInv Config.hw (withCursors apos spos live).arch where
  ioCount_le := Nat.zero_le _
  patternLen_le := hw_valid.patternMax_pos
  outLen_le := Nat.zero_le _
  entry_legal := fun i hi => by
    have : i = 0 := Nat.lt_one_iff.1 hi
    subst this
    exact ⟨Nat.le_refl 1, show 1 ≤ 65535 by decide⟩
  entry_zero := fun i hi => by
    have hi' : 1 ≤ i := hi
    have : i ≠ 0 := by omega
    simp [withCursors, live, engine, Store.read, this]
  out_zero := fun _ _ => rfl
  lanes_canonical := fun i => by
    have : (withCursors apos spos live).arch.lanes[i] = 0 := (by decide : ∀ j : Fin WIDTH, live.arch.lanes[j] = 0) i
    rw [this]
    exact modulus_pos
  out_canonical := fun _ => modulus_pos
  pat_wf := rfl
  out_wf := rfl
  cleared := fun h => absurd h (show ¬(1 = 0) by decide)

/-- The invariant in an idle engine that is not the one after reset. -/
theorem inv_live : Inv Config.hw live where
  phase := archInv_live 0 0
  permUnit := rfl
  rem_le := Nat.zero_le _
  wrIdx_le := Nat.zero_le _
  doutIdx_le := Nat.zero_le _

/-- The controller in the middle of `ABSORB [x]`. -/
def absCtrl (ph : Phase) : Ctrl := ⟨ph, .absorb, 1, 1, .ok, 0, 0⟩

/-- The controller in the middle of a SQUEEZE of one element. -/
def sqzCtrl (ph : Phase) : Ctrl := ⟨ph, .squeeze, 0, 1, .ok, 0, 0⟩

theorem absorbing_live (ph : Phase) (apos spos : Cursor) :
    Absorbing (withCursors apos spos live).arch (absCtrl ph) :=
  ⟨rfl, rfl, Nat.zero_lt_one, rfl, Nat.le_refl _, Nat.le_refl _⟩

theorem squeezing_live (ph : Phase) (apos spos : Cursor) :
    Squeezing Config.hw (withCursors apos spos live).arch (sqzCtrl ph) :=
  ⟨rfl, rfl, Nat.zero_lt_one, Nat.le_refl _, Nat.le_refl _, hw_valid.outMax_pos⟩

/-- The invariant in ABS_ELEM below RATE and at RATE, and in SQZ_ELEM. -/
theorem inv_elem (apos spos : Cursor) :
    Inv Config.hw (inPhase (absCtrl .absElem) (withCursors apos spos live)) ∧
    Inv Config.hw (inPhase (sqzCtrl .sqzElem) (withCursors apos spos live)) :=
  ⟨⟨⟨archInv_live apos spos, absorbing_live _ apos spos⟩, rfl, show 1 ≤ 65536 by decide, Nat.zero_le _, Nat.zero_le _⟩,
    ⟨⟨archInv_live apos spos, squeezing_live _ apos spos⟩, rfl, show 1 ≤ 65536 by decide, Nat.zero_le _,
      Nat.zero_le _⟩⟩

/-- PERM_WAIT with its request outstanding. -/
def waiting (c : Ctrl) : State :=
  { inPhase c (withCursors 3 3 live) with
    ports := { Ports.reset with permUnit := some #v[0, 0, 0, 0] } }

theorem inv_perm :
    Inv Config.hw (inPhase (absCtrl .permReq) (withCursors 3 0 live)) ∧
    Inv Config.hw (inPhase (sqzCtrl .permReq) (withCursors 0 3 live)) ∧
    Inv Config.hw (waiting (absCtrl .permWait)) ∧ Inv Config.hw (waiting (sqzCtrl .permWait)) :=
  ⟨⟨⟨archInv_live 3 0, .inl ⟨absorbing_live _ 3 0, rfl⟩⟩, rfl, by decide, Nat.zero_le _, Nat.zero_le _⟩,
    ⟨⟨archInv_live 0 3, .inr ⟨squeezing_live _ 0 3, rfl⟩⟩, rfl, by decide, Nat.zero_le _,
      Nat.zero_le _⟩,
    ⟨⟨archInv_live 3 3, .inl ⟨absorbing_live _ 3 3, rfl⟩⟩, rfl, by decide, Nat.zero_le _,
      Nat.zero_le _⟩,
    ⟨⟨archInv_live 3 3, .inr ⟨squeezing_live _ 3 3, rfl⟩⟩, rfl, by decide, Nat.zero_le _,
      Nat.zero_le _⟩⟩

/-- START's controller before the tag. -/
def tagCtrl : Ctrl := ⟨.startTag, .start, 0, 1, .ok, 0, 0⟩

/-- DRAIN with one word to come, RESP after an error, and the tag awaited on the cleared engine. -/
theorem inv_drain_resp_tag :
    Inv Config.hw (inPhase ⟨.drain, .absorb, 2, 1, .patternMismatch, 0, 0⟩
      (withFault .patternMismatch live)) ∧
    Inv Config.hw (inPhase ⟨.resp, .absorb, 2, 0, .patternMismatch, 0, 0⟩
      (withFault .patternMismatch live)) ∧
    Inv Config.hw (inPhase tagCtrl State.reset) := by
  have h : ArchInv Config.hw (withFault .patternMismatch live).arch :=
    archInv_setFault (archInv_live 0 0) .patternMismatch
  refine ⟨⟨⟨h, by decide, by decide⟩, rfl, by decide, Nat.zero_le _, Nat.zero_le _⟩,
    ⟨⟨h, rfl, fun _ => by decide, fun h => by cases h⟩, rfl, by decide, Nat.zero_le _, Nat.zero_le _⟩,
    ⟨⟨⟨rfl, rfl, rfl, Nat.zero_le _, rfl, fun i hi => absurd hi (Nat.not_lt_zero i), fun _ _ => rfl,
      rfl⟩, rfl⟩, rfl, by decide, Nat.zero_le _, Nat.zero_le _⟩⟩

/-- DOUT at the only element of OUT. -/
def streaming : State :=
  { engine #v[0, 0, 0, 0] [(0, 1)] 1 1 0 1 [] 1 .ok with ctrl := ⟨.dout, .squeeze, 0, 0, .ok, 0, 0⟩ }

theorem inv_streaming : Inv Config.hw streaming := by
  have h : ArchInv Config.hw streaming.arch :=
    archInv_advance (archInv_append (archInv_live 0 0) Nat.zero_lt_one hw_valid.outMax_pos
      (v := 0) modulus_pos 1) Nat.zero_lt_one 1
  exact ⟨⟨h, rfl, rfl, rfl, Nat.zero_lt_one⟩, rfl, by decide, Nat.zero_le _, Nat.zero_le _⟩

theorem witness_ChannelEnablesByPhase :
    Inv Config.hw live ∧ Inv Config.hw streaming ∧
    Inv Config.hw (inPhase (absCtrl .absElem) (withCursors 2 0 live)) ∧
    Inv Config.hw (inPhase (absCtrl .absElem) (withCursors 3 0 live)) :=
  ⟨inv_live, inv_streaming, (inv_elem 2 0).1, (inv_elem 3 0).1⟩

theorem witness_OffersAreHeldUntilTransfer :
    (silentPins Config.hw).rst = false ∧
    (∃ t w, clockEdge Config.hw (silentPins Config.hw) (inPhase (absCtrl .resp) live) = .next t ∧
      (outputs Config.hw false (inPhase (absCtrl .resp) live)).rsp = some w) ∧
    (∃ t w, clockEdge Config.hw (silentPins Config.hw) (inPhase (absCtrl .permReq) live) = .next t ∧
      (outputs Config.hw false (inPhase (absCtrl .permReq) live)).preq = some w) ∧
    ∃ t w, clockEdge Config.hw (silentPins Config.hw) streaming = .next t ∧
      (outputs Config.hw false streaming).dout = some w := by
  have h : outRead Config.hw streaming.arch streaming.ctrl.doutIdx = .ok 0 :=
    if_pos hw_valid.outMax_pos
  refine ⟨rfl, ⟨_, _, rfl, rfl⟩, ⟨_, _, rfl, rfl⟩, ⟨_, (0, true), rfl, ?_⟩⟩
  show doutOffer Config.hw streaming.arch streaming.ctrl = some (0, true)
  unfold doutOffer
  rw [h]
  rfl

/-- Pins on which every channel transfers but the one a case waits for. -/
def busyPins : Pins Config.hw :=
  { rst := false, cmd := some 0x00000003#32, din := some 0, rspReady := true, doutReady := true,
    preqReady := true, prsp := some 0 }

theorem witness_WaitsAreNotLiftedByTime :
    busyPins.rst = false ∧
    live.ctrl.phase = .idle ∧ { busyPins with cmd := none }.cmd = none ∧
    (inPhase tagCtrl live).ctrl.phase = .startTag ∧
    (inPhase (absCtrl .absElem) (withCursors 2 0 live)).ctrl.phase = .absElem ∧
    (withCursors 2 0 live).arch.absorbPos.val < 3 ∧
    (inPhase ⟨.drain, .absorb, 2, 1, .patternMismatch, 0, 0⟩ live).ctrl.phase = .drain ∧
    0 < (inPhase ⟨.drain, .absorb, 2, 1, .patternMismatch, 0, 0⟩ live).ctrl.rem ∧
    { busyPins with din := none }.din = none ∧
    (inPhase (absCtrl .permReq) live).ctrl.phase = .permReq ∧
    { busyPins with preqReady := false }.preqReady = false ∧
    (inPhase (absCtrl .permWait) live).ctrl.phase = .permWait ∧
    { busyPins with prsp := none }.prsp = none ∧
    (inPhase (absCtrl .resp) live).ctrl.phase = .resp ∧
    { busyPins with rspReady := false }.rspReady = false ∧
    streaming.ctrl.phase = .dout ∧ { busyPins with doutReady := false }.doutReady = false :=
  ⟨rfl, rfl, rfl, rfl, rfl, by decide, rfl, by decide, rfl, rfl, rfl, rfl, rfl, rfl, rfl, rfl, rfl⟩

theorem witness_StatusPortShowsTheState : Inv Config.hw live ∧ Inv Config.hw streaming :=
  ⟨inv_live, inv_streaming⟩

theorem witness_DataPortsCarryFieldBits :
    (offered 0x00000101#32 [0, 5] live).ports.dinIn = 0 :: [5] ∧ 0 < 2 ^ fieldBits Config.hw ∧
    (∃ w, (offered 0x00000101#32 [w] live).ports.dinIn = w :: [] ∧ 2 ^ fieldBits Config.hw ≤ w ∧
      w ∈ (offered 0x00000101#32 [w] live).ports.dinIn.take (paylen 0x00000101#32) ∧
      (offered 0x00000101#32 [w] live).ports.cmdIn = 0x00000101#32 :: [] ∧
      ∃ t, cycle Config.hw (offered 0x00000101#32 [w]
        (inPhase (absCtrl .absElem) (withCursors 0 0 live))) = .next t) ∧
    Inv Config.hw streaming ∧ streaming.ctrl.phase = .dout := by
  refine ⟨rfl, Nat.two_pow_pos _, ⟨2 ^ fieldBits Config.hw, rfl, Nat.le_refl _,
    List.mem_singleton.2 rfl, rfl, ?_⟩, inv_streaming, rfl⟩
  have h : busWord Config.hw (2 ^ fieldBits Config.hw) = none := by
    simp [busWord, fitsBus]
  generalize 2 ^ fieldBits Config.hw = w at h ⊢
  simp [cycle, clockEdge, envPins, offered, inPhase, absCtrl, withCursors, live, engine, State.reset,
    Ports.reset, grant, sqzReq, absReq, sentinel, h]

theorem witness_ArbiterGrantsOneRequester :
    (silentPins Config.hw).rst = false ∧
    grant (withCursors 3 0 live).arch (absCtrl .absElem) = some .absorb ∧
    grant (withCursors 0 3 live).arch (sqzCtrl .sqzElem) = some .squeeze := by decide

/-- The pins of a PRSP transfer of the packed lanes `v`. -/
def prspPins (p : Params) (v : StateWord p) : Pins p := { silentPins p with prsp := some v }

theorem witness_PermutationWriteBack :
    (prspPins Config.hw 0).rst = false ∧ (prspPins Config.hw 0).prsp = some 0 ∧
    (waiting (absCtrl .permWait)).ctrl.phase = .permWait ∧
    (waiting (absCtrl .permWait)).ctrl.curOp = .absorb ∧
    (waiting (sqzCtrl .permWait)).ctrl.curOp = .squeeze ∧
    ∀ i : Fin WIDTH, 0 / 2 ^ (i.val * fieldBits Config.hw) % 2 ^ fieldBits Config.hw <
      Config.hw.modulus :=
  ⟨rfl, rfl, rfl, rfl, rfl, fun i => by rw [Nat.zero_div, Nat.zero_mod]; exact modulus_pos⟩

/-- The word 101, the first that is not below `P = 101`, in lane 0. -/
theorem witness_NonCanonicalAnswerIsRefused :
    toy.Valid ∧ (prspPins toy 101).rst = false ∧ (prspPins toy 101).prsp = some 101 ∧
    (waiting (absCtrl .permWait)).ctrl.phase = .permWait ∧
    toy.modulus ≤ 101 / 2 ^ ((0 : Fin WIDTH).val * fieldBits toy) % 2 ^ fieldBits toy :=
  ⟨toy_valid, rfl, rfl, rfl, by decide⟩

/-- The pins of a CMD transfer of FINISH. -/
def finishPins : Pins Config.hw := { silentPins Config.hw with cmd := some 0x00000003#32 }

theorem witness_LanesChangeThroughTheMux :
    Inv Config.hw live ∧ ∃ t, clockEdge Config.hw finishPins live = .next t := ⟨inv_live, _, rfl⟩

theorem witness_OnlyTwoPermutationTriggers :
    (∃ t, exec .finish live = .next t ∧ Instr.finish.op = .finish) ∧
    ∃ t, clockEdge Config.hw (silentPins Config.hw) (inPhase (absCtrl .absElem) (withCursors 3 0 live)) = .next t ∧
      t.ctrl.phase = .permReq ∧
      (inPhase (absCtrl .absElem) (withCursors 3 0 live)).ctrl.phase ≠ .permReq :=
  ⟨⟨_, rfl, rfl⟩, _, rfl, rfl, by decide⟩

theorem witness_HostOutputsHideTheLanes : live.ctrl.phase = .idle := rfl

theorem witness_HiddenRegistersAreDeadInIdle :
    (offered 0x00000003#32 [] live).ctrl.phase = .idle ∧ (absCtrl .idle).phase = .idle ∧
    (∃ t, step (offered 0x00000003#32 [] live) = .next t) ∧
    (∃ t, step (offered 0x00000101#32 [] live) = .next t ∧ t.ctrl.phase = .absElem) ∧
    ∃ t, cycles Config.hw 3 (offered 0x00000003#32 [] live) = .next t := by
  have h : patRead Config.hw live.arch 0 = .ok 1 := if_pos hw_valid.patternMax_pos
  refine ⟨rfl, rfl, ⟨_, rfl⟩,
    ⟨goto .absElem (taken [] (acceptHeader 0x00000101#32 (offered 0x00000101#32 [] live))), ?_, rfl⟩,
    ⟨_, rfl⟩⟩
  show cycle Config.hw (offered 0x00000101#32 [] live) = _
  have ha : acceptAbsorb Config.hw (acceptHeader 0x00000101#32 (offered 0x00000101#32 [] live)) =
      .next (goto .absElem (acceptHeader 0x00000101#32 (offered 0x00000101#32 [] live))) := by
    unfold acceptAbsorb
    show (match patRead Config.hw live.arch 0 with
      | .error f => Host.Outcome.fault f
      | .ok n => _) = _
    rw [h]
    rfl
  have hc : clockEdge Config.hw (envPins Config.hw (offered 0x00000101#32 [] live))
      (offered 0x00000101#32 [] live) =
      .next (goto .absElem (acceptHeader 0x00000101#32 (offered 0x00000101#32 [] live))) := ha
  rw [cycle, hc]
  rfl

theorem witness_EveryStepKeepsTheInvariant :
    Inv Config.hw (offered 0x00000003#32 [] live) ∧
    ∃ t, step (offered 0x00000003#32 [] live) = .next t :=
  ⟨⟨archInv_live 0 0, rfl, Nat.zero_le _, Nat.zero_le _, Nat.zero_le _⟩, _, rfl⟩

theorem witness_EveryClockEdgeKeepsTheInvariant :
    Inv Config.hw live ∧ ∃ t, clockEdge Config.hw finishPins live = .next t := ⟨inv_live, _, rfl⟩

theorem witness_NoIndexLeavesItsStore : Inv Config.hw streaming := inv_streaming

theorem witness_CountersFitTheirRegisters : Inv Config.hw streaming := inv_streaming

theorem witness_ControllerRefinesTheCommand :
    Inv Config.hw (offered 0x00000101#32 [0] live) ∧
    Offered Config.hw 0x00000101#32 (offered 0x00000101#32 [0] live) :=
  ⟨⟨archInv_live 0 0, rfl, Nat.zero_le _, Nat.zero_le _, Nat.zero_le _⟩,
    offered_zeros _ 1 (by decide)⟩

theorem witness_OutLenSumsConsumedEntries :
    OutLenSums streaming.arch [0] ∧ ∃ t, exec .finish streaming = .next t :=
  ⟨⟨List.Sublist.refl _, rfl⟩, _, rfl⟩

theorem witness_LifecycleMoves :
    ArchInv Config.hw live.arch ∧ (∃ t, exec (.absorb [0]) live = .next t ∧ t.ctrl.pend = .ok) ∧
    ArchInv Config.hw State.reset.arch ∧ lifecycle State.reset.arch = .done ∧
    (∃ t, exec .squeeze State.reset = .next t) ∧ ∃ t, exec (.start [] 0) State.reset = .next t :=
  ⟨archInv_live 0 0, ⟨_, absorb_live, rfl⟩, archInv_reset hw_valid, by decide, ⟨_, rfl⟩,
    ⟨_, start_reset⟩⟩

theorem witness_TranscriptsAreDeterministic :
    ∃ t, execAll Config.hw [.start [] 0, .squeeze, .finish] State.reset = .next t := by
  have h : execWith Config.hw (.start [] 0) State.reset =
      .next (finishCommand .start 0 .ok (startLoad [] 0 (startClear State.reset))) := start_reset
  rw [execAll, h]
  exact ⟨_, rfl⟩

theorem witness_ReferenceScenarioFiveFour :
    toy.Valid ∧ 2 ≤ toy.patternMax ∧ 4 ≤ toy.outMax ∧ 7 < toy.modulus ∧ 5 < toy.modulus :=
  ⟨toy_valid, by decide, by decide, by decide, by decide⟩

theorem witness_DifferentPatternsSameOutputs :
    toy.Valid ∧ 3 ≤ toy.patternMax ∧ 2 ≤ toy.outMax ∧ 7 < toy.modulus ∧ 3 < toy.modulus :=
  ⟨toy_valid, by decide, by decide, by decide, by decide⟩

end Sys2Proof.Tests
end

section
/-! The value of every piece of state after reset (R24, R28): the lanes and the two stores read 0 at
every index, the registers hold 0, and the status port shows an idle block. -/

namespace Sys2Proof.Proofs

open Sys2Proof Sys2Proof.Machine Sys2Proof.Laws

/-- Every lane that `clear_all` writes is 0 (R27). -/
@[simp] theorem zeroLanes_getElem (i : Nat) (hi : i < WIDTH) : zeroLanes[i] = 0 :=
  Vector.getElem_replicate hi

/-- `st_busy` is 0 exactly in IDLE, whatever the level of `rst` (R23). -/
theorem stBusy_eq_false_iff (p : Params) (rst : Bool) (s : State) :
    (outputs p rst s).stBusy = false ↔ s.ctrl.phase = .idle := by
  simp [outputs]

/-- Settles O36: the lanes are those of `clear_all`, an empty store reads 0 at every index, each
register is the 0 it was reset to, and IDLE, phase 0, is where `st_busy` is 0. -/
theorem resetValues : Obligations.ResetValues := by
  unfold Obligations.ResetValues
  have lanes : ∀ i : Fin WIDTH, State.reset.arch.lanes[i] = 0 := fun i => zeroLanes_getElem i i.isLt
  have pat : ∀ i, Store.read State.reset.arch.pat i = 0 := read_nil
  have out : ∀ i, Store.read State.reset.arch.out i = 0 := read_nil
  have idle : (outputs Config.hw false State.reset).stBusy = false :=
    (stBusy_eq_false_iff Config.hw false State.reset).2 rfl
  exact ⟨lanes, pat, rfl, rfl, rfl, rfl, out, rfl, rfl, rfl, rfl, rfl, rfl, rfl, rfl, rfl, rfl, idle⟩

end Sys2Proof.Proofs
end

section
/-! START (R90 to R93): it begins with `clear_all`, so what it leaves of the architectural state is
fixed by its operands alone, and its failures leave the cleared state with the error's code. -/

namespace Sys2Proof.Proofs

open Sys2Proof Sys2Proof.Machine Sys2Proof.Laws

/-- A START with a canonical tag is accepted in every state: it runs on the cleared engine (R90, R93). -/
theorem exec_start_of_canonical {tag : Nat} (htag : tag < Config.hw.modulus) (pattern : List Nat)
    (s : State) :
    exec (.start pattern tag) s = .next (startOn Config.hw pattern tag (startClear s)) := by
  have hc : canonicalWord Config.hw tag = true := (canonicalWord_iff hw_valid tag).2 htag
  show startWith Config.hw pattern tag s = _
  simp only [startWith, hc, Bool.not_true, Bool.false_eq_true, if_false]

/-- START's checks and load see of the engine the architectural state alone. -/
theorem startOn_arch_congr (p : Params) (pattern : List Nat) (tag : Nat) {s s' : State}
    (h : s.arch = s'.arch) :
    (startOn p pattern tag s).arch = (startOn p pattern tag s').arch := by
  unfold startOn
  split
  · rw [raiseError_arch, raiseError_arch, h]
  · split
    · rw [raiseError_arch, raiseError_arch, h]
    · simp only [finishCommand_arch, startLoad, h]

/-- Settles O10: both runs go on from the same cleared state. -/
theorem startAcceptedInEveryState : Obligations.StartAcceptedInEveryState := by
  unfold Obligations.StartAcceptedInEveryState
  intro pattern tag s s' htag
  have cleared : (startClear s).arch = (startClear s').arch := by
    rw [startClear_arch, startClear_arch]
  exact ⟨_, _, exec_start_of_canonical htag pattern s, exec_start_of_canonical htag pattern s',
    startOn_arch_congr Config.hw pattern tag cleared⟩

/-! ## A START that fails -/

/-- The code of a START that fails: Capacity is tested first (R91, R178). -/
def startError (p : Params) (pattern : List Nat) : Status :=
  if p.patternMax < pattern.length then .capacity else .badPattern

/-- What makes a pattern BadPattern (R67, R91). -/
theorem all_legalEntry_eq_false_iff (pattern : List Nat) :
    pattern.all legalEntry = false ↔ ∃ v ∈ pattern, v = 0 ∨ 65536 ≤ v := by
  have illegal (v : Nat) : ¬legalEntry v = true ↔ v = 0 ∨ 65536 ≤ v := by
    rw [legalEntry_iff]; omega
  simp only [List.all_eq_false, illegal]

/-- Both failures of START raise its error on the engine as it stands, but for the hidden `wr_idx`
(R91, R92, R144). -/
theorem startOn_of_failure {p : Params} {pattern : List Nat}
    (h : p.patternMax < pattern.length ∨ ∃ v ∈ pattern, v = 0 ∨ 65536 ≤ v) (tag : Nat) (s : State) :
    ∃ wr, startOn p pattern tag s =
      raiseError .start (BitVec.ofNat 16 pattern.length) (startError p pattern)
        { s with ctrl := { s.ctrl with wrIdx := wr } } := by
  unfold startOn startError
  by_cases hlong : p.patternMax < pattern.length
  · exact ⟨s.ctrl.wrIdx, by rw [if_pos hlong, if_pos hlong]⟩
  · have hbad : pattern.all legalEntry = false :=
      (all_legalEntry_eq_false_iff pattern).2 (h.resolve_left hlong)
    exact ⟨firstIllegal pattern, by rw [if_neg hlong, if_neg hlong, hbad]; rfl⟩

/-- An error raised on the cleared engine stands in `fault`, all else cleared (R92, R181). -/
theorem setFault_reset (c : Status) : setFault c Arch.reset = { Arch.reset with fault := c } := rfl

/-- The response word of a START that fails: the code, with count and opcode 0 (R70). -/
theorem rspWord_startError (p : Params) (pattern : List Nat) :
    rspWord .start (startError p pattern) 0 =
      if p.patternMax < pattern.length then 0x00000004#32 else 0x00000003#32 := by
  unfold startError
  split <;> decide

/-- Settles O9: the error is raised on the engine that START's first act has cleared. -/
theorem failedStartLeavesClearedState : Obligations.FailedStartLeavesClearedState := by
  unfold Obligations.FailedStartLeavesClearedState
  intro pattern tag s htag hfail
  obtain ⟨wr, hraise⟩ := startOn_of_failure hfail tag (startClear s)
  refine ⟨_, (exec_start_of_canonical htag pattern s).trans (congrArg _ hraise), ?_⟩
  rw [raiseError_arch, raiseError_ports, startClear_arch, startClear_ports, setFault_reset]
  have response := congrArg (fun w => s.ports.rspOut ++ [w]) (rspWord_startError Config.hw pattern)
  have inputs : InputsKept s.ports s.ports := ⟨rfl, rfl, rfl, rfl, rfl, rfl, rfl, rfl⟩
  exact ⟨rfl, rfl, rfl, rfl, rfl, rfl, rfl, rfl, rfl, response, rfl, rfl, inputs⟩

end Sys2Proof.Proofs
end


section
/-! ABSORB (R100 to R107): one element step (R101), and what the element loop does to the cursor and
the requests (R105) and to the capacity lane (R104). -/

namespace Sys2Proof.Proofs

open Sys2Proof Sys2Proof.Machine Sys2Proof.Laws

/-! ## One element -/

@[simp] theorem addElem_lanes (p : Params) (i : Fin WIDTH) (x : Nat) (s : State) :
    (addElem p i x s).arch.lanes = addLane p s.arch.lanes i x := rfl
@[simp] theorem addElem_absorbPos (p : Params) (i : Fin WIDTH) (x : Nat) (s : State) :
    (addElem p i x s).arch.absorbPos = s.arch.absorbPos.next := rfl
@[simp] theorem permuteForAbsorb_lanes (p : Params) (s : State) :
    (permuteForAbsorb p s).arch.lanes = p.permute s.arch.lanes := rfl
@[simp] theorem permuteForAbsorb_absorbPos (p : Params) (s : State) :
    (permuteForAbsorb p s).arch.absorbPos = 0 := rfl

/-- What ADD writes, read by the number of the lane (R101, R103). -/
theorem getElem_addLane_val (p : Params) (l : Lanes) {i : Fin WIDTH} {n : Nat} (hi : i.val = n)
    (j : Fin WIDTH) (x : Nat) :
    (addLane p l i x)[j] = if j.val = n then (l[j] + x) % p.modulus else l[j] := by
  subst hi
  rw [getElem_addLane]
  by_cases h : i = j
  · rw [if_pos h, if_pos (congrArg Fin.val h.symm), h, fadd]
  · rw [if_neg h, if_neg fun hv => h (Fin.ext hv.symm)]

/-- The cursor in numbers, beside the two cases of an element step: below RATE one lane on, and at
RATE from the permutation's 0 to 1 (R101). -/
theorem absorbElem_step (p : Params) (x : Nat) (s : State) :
    (∃ i : Fin WIDTH, s.arch.absorbPos.val < 3 ∧ i.val = s.arch.absorbPos.val + 1 ∧
        absorbElem p x s = addElem p i x s ∧
        (absorbElem p x s).arch.absorbPos.val = s.arch.absorbPos.val + 1) ∨
      (s.arch.absorbPos.val = 3 ∧
        absorbElem p x s = addElem p firstRateLane x (permuteForAbsorb p s) ∧
        (absorbElem p x s).arch.absorbPos.val = 1) := by
  rcases absorbElem_cases p x s with ⟨i, hlane, hstep⟩ | ⟨hpos, hstep⟩
  · rcases rateLane_cases s.arch.absorbPos with ⟨k, hk, hval, hlt, hnext⟩ | ⟨hnone, -⟩
    · obtain rfl : k = i := Option.some.inj (hk.symm.trans hlane)
      exact .inl ⟨k, hlt, hval, hstep, by rw [hstep]; exact hnext⟩
    · rw [hnone] at hlane; cases hlane
  · exact .inr ⟨by rw [hpos]; rfl, hstep, by rw [hstep]; rfl⟩

/-- An element step touches the lanes and `absorb_pos` alone of the architectural state, and no hidden
register (R101). -/
theorem absorbElem_frame (p : Params) (x : Nat) (s : State) :
    (absorbElem p x s).arch =
        { s.arch with
          lanes := (absorbElem p x s).arch.lanes
          absorbPos := (absorbElem p x s).arch.absorbPos } ∧
      (absorbElem p x s).ctrl = s.ctrl := by
  rcases absorbElem_cases p x s with ⟨i, -, hstep⟩ | ⟨-, hstep⟩
  · rw [hstep]; exact ⟨rfl, rfl⟩
  · rw [hstep]; exact ⟨rfl, rfl⟩

/-- Settles O11: the two clauses are the two cases of `absorbElem_step`. -/
theorem absorbElementRule : Obligations.AbsorbElementRule := by
  unfold Obligations.AbsorbElementRule
  intro x s
  refine ⟨fun hlt => ?_, fun hrate => ?_, absorbElem_frame Config.hw x s⟩
  · rcases absorbElem_step Config.hw x s with ⟨i, -, hi, hstep, hpos⟩ | ⟨heq, -, -⟩
    · refine ⟨fun j => ?_, hpos, by rw [hstep, addElem_ports]⟩
      rw [hstep, addElem_lanes, getElem_addLane_val _ _ hi]
    · omega
  · rcases absorbElem_step Config.hw x s with ⟨_, hlt, -, -, -⟩ | ⟨-, hstep, hpos⟩
    · omega
    · refine ⟨fun j => ?_, hpos, by rw [hstep, addElem_ports, permuteForAbsorb_ports]⟩
      rw [hstep, addElem_lanes, permuteForAbsorb_lanes, getElem_addLane_val _ _ firstRateLane_val]

/-! ## The element loop: the cursor and the number of requests -/

/-- R105's count, which the empty loop meets too. -/
theorem absorbElems_preqOut_length (p : Params) (xs : List Nat) (s : State) :
    (absorbElems p xs s).ports.preqOut.length =
      s.ports.preqOut.length + (s.arch.absorbPos.val + xs.length - 1) / 3 := by
  induction xs generalizing s with
  | nil =>
    have : s.arch.absorbPos.val < 4 := s.arch.absorbPos.isLt
    simp only [absorbElems, List.length_nil]
    omega
  | cons x xs ih =>
    rw [absorbElems, ih, List.length_cons]
    rcases absorbElem_step p x s with ⟨i, -, -, hstep, hpos⟩ | ⟨hrate, hstep, hpos⟩
    · have requests : (absorbElem p x s).ports.preqOut.length = s.ports.preqOut.length := by
        rw [hstep, addElem_ports]
      omega
    · have requests :
          (absorbElem p x s).ports.preqOut.length = s.ports.preqOut.length + 1 := by
        rw [hstep, addElem_ports, permuteForAbsorb_ports, List.length_append, List.length_singleton]
      omega

/-- R105: where the loop over at least one element leaves the cursor. -/
theorem absorbElems_cons_absorbPos (p : Params) (x : Nat) (xs : List Nat) (s : State) :
    (absorbElems p (x :: xs) s).arch.absorbPos.val =
      (s.arch.absorbPos.val + xs.length) % 3 + 1 := by
  have one : ∀ y u, (absorbElem p y u).arch.absorbPos.val = u.arch.absorbPos.val % 3 + 1 := by
    intro y u
    rcases absorbElem_step p y u with ⟨_, hlt, -, -, hpos⟩ | ⟨hrate, -, hpos⟩ <;> omega
  induction xs generalizing x s with
  | nil => exact one x s
  | cons y ys ih =>
    rw [absorbElems, ih, one, List.length_cons]
    omega

/-! ## ABSORB -/

/-- An ABSORB that answers: an error raised on the engine as it stands, or the element loop. -/
theorem exec_absorb_next {input : List Nat} {s t : State} (h : exec (.absorb input) s = .next t) :
    (∃ c, c ≠ .ok ∧ t = raiseError .absorb (BitVec.ofNat 16 input.length) c s) ∨
      t = finishCommand .absorb (BitVec.ofNat 16 input.length) .ok
        (absorbDone (absorbElems Config.hw input s)) := by
  replace h : absorbWith Config.hw input s = .next t := h
  rcases absorbWith_cases Config.hw input s with
    ⟨-, hr⟩ | ⟨-, -, hr⟩ | ⟨-, -, -, hr⟩ | ⟨-, -, -, -, hr⟩ | ⟨-, -, -, -, hr⟩ <;>
    rw [hr] at h <;> cases h
  · exact .inl ⟨.patternExhausted, by decide, rfl⟩
  · exact .inl ⟨.patternMismatch, by decide, rfl⟩
  · exact .inr rfl

/-- Settles O13: the count over the whole loop, and over the loop up to element `k` and up to the
element after it, whose difference is the request before element `k`. -/
theorem absorbPermutationCount : Obligations.AbsorbPermutationCount := by
  unfold Obligations.AbsorbPermutationCount
  intro input s t hne hexec hok
  rcases exec_absorb_next hexec with ⟨c, hc, rfl⟩ | rfl
  · exact absurd hok hc
  · refine ⟨absorbElems_preqOut_length Config.hw input s, ?_, fun k hk => ?_⟩
    · obtain ⟨x, xs, rfl⟩ := List.exists_cons_of_ne_nil hne
      exact absorbElems_cons_absorbPos Config.hw x xs s
    · rw [absorbElems_preqOut_length, absorbElems_preqOut_length, List.length_take_of_le hk,
        List.length_take_of_le hk.le]
      split <;> omega

/-! ## The capacity lane -/

/-- The capacity lane that was `c`, after the permutations asked for: lane 0 of the last answer, if
there was one (R104). -/
def capacityAfter (p : Params) (c : Nat) (asked : List Lanes) : Nat :=
  match asked.getLast? with
  | none => c
  | some l => (p.permute l)[0]

@[simp] theorem capacityAfter_nil (p : Params) (c : Nat) : capacityAfter p c [] = c := rfl

/-- What was there before an answer does not matter after it. -/
theorem capacityAfter_cons (p : Params) (c : Nat) (l : Lanes) (asked : List Lanes) :
    capacityAfter p c (l :: asked) = capacityAfter p (p.permute l)[0] asked := by
  unfold capacityAfter
  rw [List.getLast?_cons]
  cases asked.getLast? <;> rfl

/-- ADD into a rate lane leaves the capacity lane (R101, R104). -/
theorem addLane_capacity (p : Params) (l : Lanes) {i : Fin WIDTH} (hi : i.val ≠ 0) (x : Nat) :
    (addLane p l i x)[0] = l[0] :=
  Vector.getElem_set_ne _ _ hi

/-- The element loop's requests, and the capacity lane they leave (R104). -/
theorem absorbElems_capacity (p : Params) (xs : List Nat) (s : State) :
    ∃ asked, (absorbElems p xs s).ports.preqOut = s.ports.preqOut ++ asked ∧
      (absorbElems p xs s).arch.lanes[0] = capacityAfter p s.arch.lanes[0] asked := by
  induction xs generalizing s with
  | nil => exact ⟨[], (List.append_nil _).symm, rfl⟩
  | cons x xs ih =>
    obtain ⟨asked, hasked, hlane⟩ := ih (absorbElem p x s)
    rw [absorbElems, hasked, hlane]
    rcases absorbElem_step p x s with ⟨i, -, hi, hstep, -⟩ | ⟨-, hstep, -⟩
    · have rate : i.val ≠ 0 := by omega
      refine ⟨asked, by rw [hstep, addElem_ports], ?_⟩
      rw [hstep, addElem_lanes, addLane_capacity p _ rate]
    · have rate : firstRateLane.val ≠ 0 := by decide
      refine ⟨s.arch.lanes :: asked, ?_, ?_⟩
      · rw [hstep, addElem_ports, permuteForAbsorb_ports, List.append_assoc, List.singleton_append]
      · rw [hstep, addElem_lanes, addLane_capacity p _ rate, permuteForAbsorb_lanes,
          capacityAfter_cons]

/-- Settles O14: an error asks for nothing and keeps the lanes; otherwise the element loop decides. -/
theorem capacityLaneOnlyPermuted : Obligations.CapacityLaneOnlyPermuted := by
  unfold Obligations.CapacityLaneOnlyPermuted
  intro input s t hexec
  rcases exec_absorb_next hexec with ⟨c, -, rfl⟩ | rfl
  · refine ⟨[], (List.append_nil _).symm, ?_⟩
    rw [raiseError_arch, setFault_lanes]
    rfl
  · obtain ⟨asked, hasked, hlane⟩ := absorbElems_capacity Config.hw input s
    refine ⟨asked, hasked, hlane.trans ?_⟩
    unfold capacityAfter
    cases asked.getLast? <;> rfl

end Sys2Proof.Proofs
end

section
/-! SQUEEZE (R110 to R116): one element step (R111), what the element loop does to the cursors and the
requests (R114), what it appends, and the SQUEEZE that follows START (R115). -/

namespace Sys2Proof.Proofs

open Sys2Proof Sys2Proof.Machine Sys2Proof.Laws

/-! ## One element -/

@[simp] theorem tookElem_absorbPos (i : Fin WIDTH) (s : State) :
    (tookElem i s).arch.absorbPos = s.arch.absorbPos := rfl
@[simp] theorem tookElem_ports (i : Fin WIDTH) (s : State) : (tookElem i s).ports = s.ports := rfl
@[simp] theorem permuteForSqueeze_lanes (p : Params) (s : State) :
    (permuteForSqueeze p s).arch.lanes = p.permute s.arch.lanes := rfl
@[simp] theorem permuteForSqueeze_absorbPos (p : Params) (s : State) :
    (permuteForSqueeze p s).arch.absorbPos = 0 := rfl
@[simp] theorem permuteForSqueeze_outLen (p : Params) (s : State) :
    (permuteForSqueeze p s).arch.outLen = s.arch.outLen := rfl

/-- Taking an element writes the lane at `out_len` and no other index of OUT (R111). -/
theorem read_tookElem (i : Fin WIDTH) {s : State} (hwf : Store.wf s.arch.out = true) (j : Nat) :
    Store.read (tookElem i s).arch.out j =
      if j = s.arch.outLen then s.arch.lanes[i] else Store.read s.arch.out j :=
  read_write hwf s.arch.outLen s.arch.lanes[i] j

/-- A lane read by its number. -/
theorem toList_getD_eq_getElem (l : Lanes) {i : Fin WIDTH} {n : Nat} (hi : i.val = n) :
    l.toList.getD n 0 = l[i] := by
  subst hi
  have hlt : i.val < l.toList.length := by rw [Vector.length_toList]; exact i.isLt
  rw [List.getD_eq_getElem _ _ hlt, Vector.getElem_toList, Fin.getElem_fin]

/-- Everything an element step that answers has done, the cursor in numbers: below RATE the cursor's
lane is taken, and at RATE the first rate lane of the permuted state (R111). -/
theorem squeezeElem_ok_cases {p : Params} {s t : State} (h : squeezeElem p s = .ok t) :
    (∃ i : Fin WIDTH, s.arch.squeezePos.val < 3 ∧ i.val = s.arch.squeezePos.val + 1 ∧
        t = tookElem i s ∧ t.arch.squeezePos.val = s.arch.squeezePos.val + 1) ∨
      (s.arch.squeezePos.val = 3 ∧ t = tookElem firstRateLane (permuteForSqueeze p s) ∧
        t.arch.squeezePos.val = 1) := by
  have took : ∀ i u, takeElem p i u = .ok t → t = tookElem i u := by
    intro i u hu
    rw [takeElem_eq] at hu
    split at hu <;> cases hu
    rfl
  rcases squeezeElem_cases p s with ⟨i, hlane, hstep⟩ | ⟨hpos, hstep⟩ <;> rw [hstep] at h
  · rcases rateLane_cases s.arch.squeezePos with ⟨k, hk, hval, hlt, hnext⟩ | ⟨hnone, -⟩
    · obtain rfl : k = i := Option.some.inj (hk.symm.trans hlane)
      exact .inl ⟨k, hlt, hval, took k s h, by rw [took k s h]; exact hnext⟩
    · rw [hnone] at hlane; cases hlane
  · have ht := took _ _ h
    exact .inr ⟨by rw [hpos]; rfl, ht, by rw [ht]; rfl⟩

/-- An element step answers where OUT has room (R42, R111). -/
theorem exists_squeezeElem {p : Params} {s : State} (hroom : s.arch.outLen < p.outMax) :
    ∃ t, squeezeElem p s = .ok t := by
  rcases squeezeElem_cases p s with ⟨i, -, hstep⟩ | ⟨-, hstep⟩
  · exact ⟨_, by rw [hstep, takeElem_eq, if_pos hroom]⟩
  · exact ⟨_, by rw [hstep, takeElem_eq, permuteForSqueeze_outLen, if_pos hroom]⟩

/-- An element step counts the element in `out_len` and leaves the pattern, its cursor, `fault` and the
hidden registers (R111). -/
theorem squeezeElem_frame {p : Params} {s t : State} (h : squeezeElem p s = .ok t) :
    t.arch.outLen = s.arch.outLen + 1 ∧
      t.arch.pat = s.arch.pat ∧ t.arch.patternLen = s.arch.patternLen ∧
      t.arch.ioCount = s.arch.ioCount ∧ t.arch.fault = s.arch.fault ∧ t.ctrl = s.ctrl := by
  rcases squeezeElem_ok_cases h with ⟨i, -, -, rfl, -⟩ | ⟨-, rfl, -⟩ <;>
    exact ⟨rfl, rfl, rfl, rfl, rfl, rfl⟩

/-- Settles O16: the two clauses are the two cases of `squeezeElem_ok_cases`. -/
theorem squeezeElementRule : Obligations.SqueezeElementRule := by
  unfold Obligations.SqueezeElementRule
  intro s hwf hroom
  obtain ⟨t, ht⟩ := exists_squeezeElem hroom
  refine ⟨t, ht, fun hlt => ?_, fun hrate => ?_, squeezeElem_frame ht⟩
  · rcases squeezeElem_ok_cases ht with ⟨i, -, hi, rfl, hpos⟩ | ⟨heq, -, -⟩
    · refine ⟨rfl, rfl, hpos, rfl, fun j => ?_⟩
      rw [read_tookElem i hwf, toList_getD_eq_getElem _ hi]
    · omega
  · rcases squeezeElem_ok_cases ht with ⟨_, hlt, -, -, -⟩ | ⟨-, rfl, hpos⟩
    · omega
    · exact ⟨rfl, rfl, hpos, rfl,
        read_tookElem firstRateLane (s := permuteForSqueeze Config.hw s) hwf⟩

/-! ## The element loop -/

/-- The loop over one element more begins with an element step. -/
theorem squeezeElems_succ_ok {p : Params} {n : Nat} {s u : State}
    (h : squeezeElems p (n + 1) s = .ok u) :
    ∃ t, squeezeElem p s = .ok t ∧ squeezeElems p n t = .ok u := by
  rw [squeezeElems] at h
  split at h
  · cases h
  · next t ht => exact ⟨t, ht, h⟩

/-- The loop over `k + m` elements is the loop over `k` and then the loop over `m`. -/
theorem squeezeElems_add_ok {p : Params} {k m : Nat} {s u : State}
    (h : squeezeElems p (k + m) s = .ok u) :
    ∃ v, squeezeElems p k s = .ok v ∧ squeezeElems p m v = .ok u := by
  induction k generalizing s with
  | zero => exact ⟨s, rfl, by rwa [Nat.zero_add] at h⟩
  | succ k ih =>
    rw [Nat.add_right_comm] at h
    obtain ⟨t, ht, hrest⟩ := squeezeElems_succ_ok h
    obtain ⟨v, hv, hu⟩ := ih hrest
    exact ⟨v, by rw [squeezeElems, ht]; exact hv, hu⟩

/-- The loop answers where OUT has the room (R42, R110). -/
theorem exists_squeezeElems {p : Params} {n : Nat} {s : State}
    (hroom : s.arch.outLen + n ≤ p.outMax) : ∃ u, squeezeElems p n s = .ok u := by
  obtain ⟨_, _, _, _, _, h⟩ := squeezeElems_frame p n s hroom
  exact ⟨_, h⟩

/-- R114's count, which the empty loop meets too; where nothing is permuted `absorb_pos` stays, and
the first permutation makes it 0. -/
theorem squeezeElems_requests {p : Params} {n : Nat} {s u : State}
    (h : squeezeElems p n s = .ok u) :
    u.ports.preqOut.length =
        s.ports.preqOut.length + (s.arch.squeezePos.val + n - 1) / 3 ∧
      u.arch.absorbPos =
        if (s.arch.squeezePos.val + n - 1) / 3 = 0 then s.arch.absorbPos else 0 := by
  induction n generalizing s with
  | zero =>
    obtain rfl : s = u := Except.ok.inj h
    have : s.arch.squeezePos.val < 4 := s.arch.squeezePos.isLt
    have unasked : (s.arch.squeezePos.val + 0 - 1) / 3 = 0 := by omega
    rw [unasked]
    exact ⟨rfl, rfl⟩
  | succ n ih =>
    obtain ⟨t, ht, hrest⟩ := squeezeElems_succ_ok h
    obtain ⟨hlen, hpos⟩ := ih hrest
    rw [hlen, hpos]
    rcases squeezeElem_ok_cases ht with ⟨i, -, -, rfl, hnext⟩ | ⟨hrate, rfl, hnext⟩
    · rw [hnext, tookElem_ports, tookElem_absorbPos, Nat.add_right_comm _ 1 n]
      exact ⟨rfl, rfl⟩
    · have requests : (tookElem firstRateLane (permuteForSqueeze p s)).ports.preqOut.length =
          s.ports.preqOut.length + 1 := by simp
      have asked : (s.arch.squeezePos.val + (n + 1) - 1) / 3 ≠ 0 := by omega
      rw [if_neg asked, tookElem_absorbPos, permuteForSqueeze_absorbPos, ite_self]
      exact ⟨by omega, rfl⟩

/-- R114: where the loop over at least one element leaves `squeeze_pos`. -/
theorem squeezeElems_succ_squeezePos {p : Params} {n : Nat} {s u : State}
    (h : squeezeElems p (n + 1) s = .ok u) :
    u.arch.squeezePos.val = (s.arch.squeezePos.val + n) % 3 + 1 := by
  have one : ∀ {v t}, squeezeElem p v = .ok t →
      t.arch.squeezePos.val = v.arch.squeezePos.val % 3 + 1 := by
    intro v t ht
    rcases squeezeElem_ok_cases ht with ⟨_, hlt, -, -, hpos⟩ | ⟨hrate, -, hpos⟩ <;> omega
  induction n generalizing s with
  | zero =>
    obtain ⟨t, ht, hrest⟩ := squeezeElems_succ_ok h
    cases hrest
    exact one ht
  | succ n ih =>
    obtain ⟨t, ht, hrest⟩ := squeezeElems_succ_ok h
    rw [ih hrest, one ht]
    omega

/-! ## SQUEEZE -/

/-- A SQUEEZE whose checks pass completes with what the element loop answers (R110). -/
theorem squeezeWith_of_room {p : Params} {s : State} (hlive : s.arch.ioCount ≠ s.arch.patternLen)
    (hpat : s.arch.ioCount < p.patternMax)
    (hroom : s.arch.outLen + Store.read s.arch.pat s.arch.ioCount ≤ p.outMax) :
    ∃ u, squeezeElems p (Store.read s.arch.pat s.arch.ioCount) s = .ok u ∧
      squeezeWith p s = .next (streamOut (finishCommand .squeeze 0 .ok (squeezeDone u))) := by
  rcases squeezeWith_cases p s with ⟨he, -⟩ | ⟨-, hi, -⟩ | ⟨-, -, hn, -⟩ | ⟨-, -, -, hu⟩
  · exact absurd he hlive
  · omega
  · omega
  · exact hu

/-- A SQUEEZE that succeeds had the room, and has run the element loop (R110, R112). -/
theorem squeezeWith_ok {p : Params} {s t : State} (h : squeezeWith p s = .next t)
    (hok : t.ctrl.pend = .ok) :
    s.arch.outLen + Store.read s.arch.pat s.arch.ioCount ≤ p.outMax ∧
      ∃ u, squeezeElems p (Store.read s.arch.pat s.arch.ioCount) s = .ok u ∧
        t = streamOut (finishCommand .squeeze 0 .ok (squeezeDone u)) := by
  rcases squeezeWith_cases p s with ⟨-, hr⟩ | ⟨-, -, hr⟩ | ⟨-, -, -, hr⟩ | ⟨-, -, hroom, u, hu, hr⟩ <;>
    rw [hr] at h <;> cases h
  · cases hok
  · cases hok
  · exact ⟨hroom, u, hu, rfl⟩

/-- Settles O18: the count over the whole loop, and over the loop up to element `k` and up to the
element after it, whose difference is the request before element `k`. -/
theorem squeezePermutationCount : Obligations.SqueezePermutationCount := by
  unfold Obligations.SqueezePermutationCount
  intro s t n hn hread hexec hok
  obtain ⟨hroom, u, hu, rfl⟩ := squeezeWith_ok (p := Config.hw) hexec hok
  rw [hread] at hroom hu
  obtain ⟨hlen, habsorb⟩ := squeezeElems_requests hu
  refine ⟨hlen, ?_, habsorb, fun k hk => ?_⟩
  · obtain ⟨m, rfl⟩ := Nat.exists_eq_add_of_le' hn
    have cursor := squeezeElems_succ_squeezePos hu
    exact cursor
  · obtain ⟨v, hv⟩ := exists_squeezeElems (p := Config.hw) (n := k) (s := s) (by omega)
    obtain ⟨w, hw⟩ := exists_squeezeElems (p := Config.hw) (n := k + 1) (s := s) (by omega)
    refine ⟨v, w, hv, hw, ?_⟩
    rw [(squeezeElems_requests hv).1, (squeezeElems_requests hw).1]
    split <;> omega

/-! ## What the loop appends -/

/-- `u` comes from `s` by `n` elements appended to OUT: what OUT held below `out_len` stands, and the
requests made stay the oldest (R21, R72, R127). -/
structure Appends (n : Nat) (s u : State) : Prop where
  outLen : u.arch.outLen = s.arch.outLen + n
  out_wf : Store.wf s.arch.out = true → Store.wf u.arch.out = true
  read_below : Store.wf s.arch.out = true → ∀ i, i < s.arch.outLen →
    Store.read u.arch.out i = Store.read s.arch.out i
  requests : s.ports.preqOut <+: u.ports.preqOut

theorem Appends.refl (s : State) : Appends 0 s s where
  outLen := rfl
  out_wf := id
  read_below := fun _ _ _ => rfl
  requests := ⟨[], List.append_nil _⟩

theorem Appends.trans {m n : Nat} {s t u : State} (h : Appends m s t) (h' : Appends n t u) :
    Appends (m + n) s u where
  outLen := by rw [h'.outLen, h.outLen, Nat.add_assoc]
  out_wf := fun hwf => h'.out_wf (h.out_wf hwf)
  read_below := fun hwf i hi => by
    have hlen := h.outLen
    rw [h'.read_below (h.out_wf hwf) i (by omega), h.read_below hwf i hi]
  requests := h.requests.trans h'.requests

/-- Taking an element appends it (R111). -/
theorem appends_tookElem (i : Fin WIDTH) (s : State) : Appends 1 s (tookElem i s) where
  outLen := rfl
  out_wf := fun hwf => wf_write hwf _ _
  read_below := fun hwf j hj => by rw [read_tookElem i hwf, if_neg (by omega)]
  requests := ⟨[], List.append_nil _⟩

/-- A permutation appends nothing to OUT (R111). -/
theorem appends_permuteForSqueeze (p : Params) (s : State) : Appends 0 s (permuteForSqueeze p s) where
  outLen := rfl
  out_wf := id
  read_below := fun _ _ _ => rfl
  requests := ⟨_, rfl⟩

/-- An element step appends one element. -/
theorem squeezeElem_appends {p : Params} {s t : State} (h : squeezeElem p s = .ok t) :
    Appends 1 s t := by
  rcases squeezeElem_ok_cases h with ⟨i, -, -, rfl, -⟩ | ⟨-, rfl, -⟩
  · exact appends_tookElem i s
  · exact (appends_permuteForSqueeze p s).trans (appends_tookElem firstRateLane _)

/-- The loop over `n` elements appends `n`. -/
theorem squeezeElems_appends {p : Params} {n : Nat} {s u : State}
    (h : squeezeElems p n s = .ok u) : Appends n s u := by
  induction n generalizing s with
  | zero =>
    obtain rfl : s = u := Except.ok.inj h
    exact .refl s
  | succ n ih =>
    obtain ⟨t, ht, hrest⟩ := squeezeElems_succ_ok h
    rw [Nat.add_comm]
    exact (squeezeElem_appends ht).trans (ih hrest)

/-- Element `k` of the loop: the loop up to it, its own step, and what the rest leaves of that step. -/
theorem squeezeElems_element {p : Params} {n k : Nat} {s u : State}
    (h : squeezeElems p n s = .ok u) (hk : k < n) (hwf : Store.wf s.arch.out = true) :
    ∃ v w, squeezeElems p k s = .ok v ∧ Store.wf v.arch.out = true ∧
      v.arch.outLen = s.arch.outLen + k ∧ squeezeElem p v = .ok w ∧
      w.ports.preqOut <+: u.ports.preqOut ∧
      Store.read u.arch.out (s.arch.outLen + k) = Store.read w.arch.out (s.arch.outLen + k) := by
  obtain ⟨m, rfl⟩ : ∃ m, n = k + (m + 1) := ⟨n - k - 1, by omega⟩
  obtain ⟨v, hv, hrest⟩ := squeezeElems_add_ok h
  obtain ⟨w, hw, hu⟩ := squeezeElems_succ_ok hrest
  have before := squeezeElems_appends hv
  have step := squeezeElem_appends hw
  have after := squeezeElems_appends hu
  have hvwf := before.out_wf hwf
  have below : s.arch.outLen + k < w.arch.outLen := by
    rw [step.outLen, before.outLen]; omega
  exact ⟨v, w, hv, hvwf, before.outLen, hw, after.requests,
    after.read_below (step.out_wf hvwf) _ below⟩

/-- Until the cursor reaches RATE the loop moves the cursor alone: nothing is permuted (R111, R114). -/
theorem squeezeElems_below_rate {p : Params} {n : Nat} {s u : State}
    (h : squeezeElems p n s = .ok u) (hn : s.arch.squeezePos.val + n ≤ 3) :
    u.arch.lanes = s.arch.lanes ∧ u.arch.squeezePos.val = s.arch.squeezePos.val + n ∧
      u.ports = s.ports := by
  induction n generalizing s with
  | zero => cases h; exact ⟨rfl, rfl, rfl⟩
  | succ n ih =>
    obtain ⟨t, ht, hrest⟩ := squeezeElems_succ_ok h
    rcases squeezeElem_ok_cases ht with ⟨i, -, -, rfl, hnext⟩ | ⟨hrate, -, -⟩
    · obtain ⟨hlanes, hpos, hports⟩ := ih hrest (by omega)
      exact ⟨hlanes, by omega, hports⟩
    · omega

/-- An element before the first permutation is the rate lane that the cursor has come to (R111, R115). -/
theorem squeezeElems_read_below_rate {p : Params} {n k : Nat} {s u : State}
    (h : squeezeElems p n s = .ok u) (hk : k < n) (hwf : Store.wf s.arch.out = true)
    (hrate : s.arch.squeezePos.val + k < 3) :
    Store.read u.arch.out (s.arch.outLen + k) =
      s.arch.lanes.toList.getD (s.arch.squeezePos.val + k + 1) 0 := by
  obtain ⟨v, w, hv, hvwf, hvlen, hw, -, hread⟩ := squeezeElems_element h hk hwf
  obtain ⟨hlanes, hpos, -⟩ := squeezeElems_below_rate hv hrate.le
  rcases squeezeElem_ok_cases hw with ⟨i, -, hi, rfl, -⟩ | ⟨heq, -, -⟩
  · rw [hread, read_tookElem i hvwf, if_pos hvlen.symm, ← hpos, ← hlanes,
      toList_getD_eq_getElem _ hi]
  · omega

/-- The element at which the cursor first stands at RATE: the loop's first request is the state as it
was, and the element is the first rate lane of the answer (R111, R115). -/
theorem squeezeElems_first_permutation {p : Params} {n k : Nat} {s u : State}
    (h : squeezeElems p n s = .ok u) (hk : k < n) (hwf : Store.wf s.arch.out = true)
    (hrate : s.arch.squeezePos.val + k = 3) :
    u.ports.preqOut[s.ports.preqOut.length]? = some s.arch.lanes ∧
      Store.read u.arch.out (s.arch.outLen + k) = (p.permute s.arch.lanes)[firstRateLane] := by
  obtain ⟨v, w, hv, hvwf, hvlen, hw, ⟨later, hlater⟩, hread⟩ := squeezeElems_element h hk hwf
  obtain ⟨hlanes, hpos, hports⟩ := squeezeElems_below_rate hv hrate.le
  rcases squeezeElem_ok_cases hw with ⟨_, hlt, -, -, -⟩ | ⟨-, rfl, -⟩
  · omega
  · constructor
    · rw [← hlater, tookElem_ports, permuteForSqueeze_ports, hports, hlanes]
      simp
    · rw [hread, read_tookElem firstRateLane (s := permuteForSqueeze p v) hvwf,
        permuteForSqueeze_outLen, if_pos hvlen.symm, permuteForSqueeze_lanes, hlanes]

/-! ## SQUEEZE after START -/

/-- A START that succeeds has loaded a pattern that PAT holds on the cleared engine (R90, R91). -/
theorem startWith_ok {p : Params} {pattern : List Nat} {tag : Nat} {s t : State}
    (h : startWith p pattern tag s = .next t) (hok : t.ctrl.pend = .ok) :
    pattern.length ≤ p.patternMax ∧
      t = finishCommand .start (BitVec.ofNat 16 pattern.length) .ok
        (startLoad pattern tag (startClear s)) := by
  rcases startWith_cases p pattern tag s with
    ⟨-, hr⟩ | ⟨-, -, hr⟩ | ⟨-, -, -, hr⟩ | ⟨-, hlen, -, hr⟩ <;> rw [hr] at h <;> cases h
  · cases hok
  · cases hok
  · exact ⟨hlen, rfl⟩

/-- Entry 0 of a loaded pattern (R90). -/
theorem read_loadPattern_head (n : Nat) (more : List Nat) :
    Store.read (loadPattern (n :: more) 0 []) 0 = n := by
  rw [read_loadPattern _ _ _ wf_nil, if_pos (by simp)]
  rfl

/-- The lanes that START leaves: the tag in the capacity lane, zeros in the rate lanes (R90). -/
theorem tagLanes_zeroLanes (tag : Nat) : tagLanes zeroLanes tag = #v[tag, 0, 0, 0] := rfl

/-- The lanes that START leaves read 0 from the first rate lane on (R90, R115). -/
theorem started_rate_getD (tag i : Nat) :
    (#v[tag, 0, 0, 0] : Lanes).toList.getD (i + 1) 0 = 0 := by
  rcases i with _ | _ | _ | i <;> rfl

/-- Settles O21: START leaves the cursor at 0 and `[tag, 0, 0, 0]`, so the elements before the first
permutation are the zeros of the rate lanes, and element 3 stands behind a permutation of that state. -/
theorem squeezeFirstReadsZeros : Obligations.SqueezeFirstReadsZeros := by
  unfold Obligations.SqueezeFirstReadsZeros
  intro p n tag more s t _ _ hmax hstart hok
  obtain ⟨hlen, ht⟩ := startWith_ok hstart hok
  have lanes : t.arch.lanes = #v[tag, 0, 0, 0] := by rw [ht]; exact tagLanes_zeroLanes tag
  have entry : Store.read t.arch.pat t.arch.ioCount = n := by
    rw [ht]; exact read_loadPattern_head n more
  have patternLen : t.arch.patternLen = more.length + 1 := by rw [ht]; rfl
  have ioCount : t.arch.ioCount = 0 := by rw [ht]; rfl
  have cursor : t.arch.squeezePos.val = 0 := by rw [ht]; rfl
  have outLen : t.arch.outLen = 0 := by rw [ht]; rfl
  have out_wf : Store.wf t.arch.out = true := by rw [ht]; rfl
  rw [List.length_cons] at hlen
  obtain ⟨u, hu, hexec⟩ := squeezeWith_of_room (p := p) (s := t) (by omega) (by omega) (by omega)
  rw [entry] at hu
  refine ⟨_, hexec, ?_, fun i hi hi3 => ?_, ?_, fun hn => ?_⟩
  · exact (squeezeElems_appends hu).outLen.trans (by omega)
  · have zero := squeezeElems_read_below_rate hu hi out_wf (by omega)
    rw [lanes, started_rate_getD, outLen, Nat.zero_add] at zero
    exact zero
  · have requests := (squeezeElems_requests hu).1
    rw [cursor, Nat.zero_add] at requests
    exact requests
  · have first := squeezeElems_first_permutation (k := 3) hu (by omega) out_wf (by omega)
    rw [lanes, outLen, Nat.zero_add] at first
    exact first

end Sys2Proof.Proofs
end

section
/-! The words of PREQ and PRSP (R126): packed canonical lanes are the digits, in base
`2 ^ FIELD_BITS`, of one number of WIDTH digits, and a field of a word is one of its digits. Mathlib's
`finFunctionFinEquiv` is the bijection between such digits and such numbers. -/

namespace Sys2Proof.Proofs

open Sys2Proof Sys2Proof.Machine Sys2Proof.Laws

/-- A canonical lane fits its field of FIELD_BITS bits (R4, R126). -/
theorem canonicalLane_lt_two_pow_fieldBits {p : Params} {l : Lanes} (hl : p.CanonicalLanes l)
    (i : Fin WIDTH) : l[i] < 2 ^ fieldBits p := by
  have hlane : l[i] ≤ p.modulus - 1 := Nat.le_sub_one_of_lt (hl i)
  exact hlane.trans_lt (lt_two_pow_bitlength (p.modulus - 1))

/-- Lanes that fit their fields, as the digits of the packed word. -/
def laneDigits (p : Params) (l : Lanes) (hl : ∀ i : Fin WIDTH, l[i] < 2 ^ fieldBits p) :
    Fin WIDTH → Fin (2 ^ fieldBits p) :=
  fun i => ⟨l[i], hl i⟩

/-- No bit is lost in packing: the word is the number with the lanes as its digits (R126). -/
theorem packLanes_toNat (p : Params) (l : Lanes) (hl : ∀ i : Fin WIDTH, l[i] < 2 ^ fieldBits p) :
    (packLanes p l).toNat = (finFunctionFinEquiv (laneDigits p l hl)).val := by
  have hsum : (finFunctionFinEquiv (laneDigits p l hl)).val =
      l[0] + l[1] * 2 ^ fieldBits p + l[2] * 2 ^ (2 * fieldBits p) + l[3] * 2 ^ (3 * fieldBits p) := by
    rw [finFunctionFinEquiv_apply]
    refine (Fin.sum_univ_four _).trans ?_
    simp [laneDigits, WIDTH, RATE, CAPACITY, ← pow_mul']
  have hlt : (finFunctionFinEquiv (laneDigits p l hl)).val < 2 ^ (WIDTH * fieldBits p) := by
    rw [pow_mul']
    exact (finFunctionFinEquiv (laneDigits p l hl)).isLt
  rw [packLanes, ← hsum, BitVec.toNat_ofNat, Nat.mod_eq_of_lt hlt]

/-- Lane `i` is the field of FIELD_BITS bits at bit `i * FIELD_BITS` of the packed word (R126). -/
theorem packLanes_field (p : Params) (l : Lanes) (hl : ∀ i : Fin WIDTH, l[i] < 2 ^ fieldBits p)
    (i : Fin WIDTH) :
    (packLanes p l).toNat / 2 ^ (i.val * fieldBits p) % 2 ^ fieldBits p = l[i] :=
  calc (packLanes p l).toNat / 2 ^ (i.val * fieldBits p) % 2 ^ fieldBits p
      = (finFunctionFinEquiv.symm (finFunctionFinEquiv (laneDigits p l hl)) i).val := by
        rw [packLanes_toNat p l hl, pow_mul', finFunctionFinEquiv_symm_apply_val]
    _ = l[i] := by rw [Equiv.symm_apply_apply, laneDigits]

/-- Unpacking inverts packing on lanes that fit their fields (R126). -/
theorem unpackLanes_packLanes (p : Params) (l : Lanes)
    (hl : ∀ i : Fin WIDTH, l[i] < 2 ^ fieldBits p) : unpackLanes p (packLanes p l) = l := by
  ext i hi
  exact (unpackLanes_getElem p (packLanes p l) ⟨i, hi⟩).trans (packLanes_field p l hl ⟨i, hi⟩)

/-- Settles O6: canonical lanes fit their fields, so they are the digits of the packed word, and
unpacking reads digits. -/
theorem lanePackingRoundTrip : Obligations.LanePackingRoundTrip := by
  unfold Obligations.LanePackingRoundTrip
  intro p l _ hcanonical
  have fits := canonicalLane_lt_two_pow_fieldBits hcanonical
  exact ⟨(packLanes p l).isLt, packLanes_field p l fits, unpackLanes_packLanes p l fits,
    unpackLanes_getElem p⟩

end Sys2Proof.Proofs
end

section
/-! The channels by phase (R155): each enable holds in its own phases and no two share one, so at
most one channel is enabled in a cycle. -/

namespace Sys2Proof.Proofs

open Sys2Proof Sys2Proof.Machine Sys2Proof.Laws

theorem cmdReady_iff (c : Ctrl) : cmdReady c = true ↔ c.phase = .idle := by
  rw [cmdReady, beq_iff_eq]

theorem dinReady_iff (a : Arch) (c : Ctrl) :
    dinReady a c = true ↔
      c.phase = .startPat ∨ c.phase = .startTag ∨ (c.phase = .absElem ∧ a.absorbPos.val < RATE) ∨
        (c.phase = .drain ∧ 0 < c.rem) := by
  unfold dinReady
  cases c.phase <;> simp

theorem rspOffer_isSome_iff (a : Arch) (c : Ctrl) :
    (rspOffer a c).isSome = true ↔ c.phase = .resp := by
  unfold rspOffer
  cases c.phase <;> simp

theorem preqOffer_isSome_iff (p : Params) (a : Arch) (c : Ctrl) :
    (preqOffer p a c).isSome = true ↔ c.phase = .permReq := by
  unfold preqOffer
  cases c.phase <;> simp

theorem prspReady_iff (c : Ctrl) : prspReady c = true ↔ c.phase = .permWait := by
  rw [prspReady, beq_iff_eq]

/-- DOUT is offered in its phase, at an index that OUT has (R42, R154). -/
theorem doutOffer_isSome_iff (p : Params) (a : Arch) (c : Ctrl) :
    (doutOffer p a c).isSome = true ↔ c.phase = .dout ∧ c.doutIdx < p.outMax := by
  unfold doutOffer
  by_cases hidx : c.doutIdx < p.outMax
  · have hread : outRead p a c.doutIdx = .ok (Store.read a.out c.doutIdx) := if_pos hidx
    cases c.phase <;> simp [hread, hidx]
  · have hread : outRead p a c.doutIdx = .error .outIndex := if_neg hidx
    cases c.phase <;> simp [hread, hidx]

/-- The index that DOUT sends lies in OUT (R42, R154). -/
theorem doutIdx_lt_outMax {p : Params} {s : State} (hinv : Inv p s)
    (hphase : s.ctrl.phase = .dout) : s.ctrl.doutIdx < p.outMax := by
  have hdout := hinv.phase
  rw [PhaseInv, hphase] at hdout
  obtain ⟨harch, -, -, -, hidx⟩ := hdout
  exact hidx.trans_le harch.outLen_le

/-- Of conditions that exclude each other, at most one holds. -/
theorem length_filter_le_one_of_pairwise {l : List Bool}
    (hl : l.Pairwise fun a b => ¬(a = true ∧ b = true)) : (l.filter fun b => b).length ≤ 1 := by
  induction l with
  | nil => exact Nat.zero_le 1
  | cons a l ih =>
    obtain ⟨hhead, htail⟩ := List.pairwise_cons.1 hl
    cases a with
    | false => exact ih htail
    | true =>
      have hnone : l.filter (fun b => b) = [] :=
        List.filter_eq_nil_iff.2 fun b hb hbt => hhead b hb ⟨rfl, hbt⟩
      simp [hnone]

/-- The phases of the six enables are disjoint (R155). -/
theorem enables_pairwise_exclusive (p : Params) (a : Arch) (c : Ctrl) :
    [cmdReady c, dinReady a c, (rspOffer a c).isSome, (doutOffer p a c).isSome,
      (preqOffer p a c).isSome, prspReady c].Pairwise fun b b' => ¬(b = true ∧ b' = true) := by
  simp only [List.pairwise_cons, List.forall_mem_cons, cmdReady_iff, dinReady_iff,
    rspOffer_isSome_iff, doutOffer_isSome_iff, preqOffer_isSome_iff, prspReady_iff]
  cases c.phase <;> simp

/-- Settles O38: one equivalence for each channel; the invariant gives DOUT an index inside OUT, and
`rst` masks every enable. -/
theorem channelEnablesByPhase : Obligations.ChannelEnablesByPhase := by
  unfold Obligations.ChannelEnablesByPhase
  intro s hinv
  have dout : (doutOffer Config.hw s.arch s.ctrl).isSome = true ↔ s.ctrl.phase = .dout :=
    (doutOffer_isSome_iff Config.hw s.arch s.ctrl).trans
      (and_iff_left_of_imp (doutIdx_lt_outMax hinv))
  exact ⟨cmdReady_iff s.ctrl, dinReady_iff s.arch s.ctrl,
    preqOffer_isSome_iff Config.hw s.arch s.ctrl, prspReady_iff s.ctrl,
    rspOffer_isSome_iff s.arch s.ctrl, dout,
    length_filter_le_one_of_pairwise (enables_pairwise_exclusive Config.hw s.arch s.ctrl), rfl⟩

end Sys2Proof.Proofs
end

section
/-! The write-back of a permutation's answer (R129, R150): the word on PRSP is unpacked, checked,
and written back on the path that asked, which `cur_op` names. -/

namespace Sys2Proof.Proofs

open Sys2Proof Sys2Proof.Machine Sys2Proof.Laws

/-- A word whose fields are all below `P` unpacks to canonical lanes (R126, R131 clause (d)). -/
theorem canonicalLanes_unpackLanes {p : Params} (hp : p.Valid) {v : StateWord p}
    (hv : ∀ i : Fin WIDTH, v.toNat / 2 ^ (i.val * fieldBits p) % 2 ^ fieldBits p < p.modulus) :
    canonicalLanes p (unpackLanes p v) = true :=
  (canonicalLanes_iff hp _).2 fun i => (unpackLanes_getElem p v i).trans_lt (hv i)

/-- PERM_WAIT at the PRSP transfer runs its micro-step on the unpacked word (R126, R150). -/
theorem clockEdge_permWait {p : Params} {pins : Pins p} {s : State} {v : StateWord p}
    (hrst : pins.rst = false) (hprsp : pins.prsp = some v) (hphase : s.ctrl.phase = .permWait) :
    clockEdge p pins s = permWaitStep p (unpackLanes p v) s := by
  simp [clockEdge, hrst, hprsp, hphase]

/-- A canonical answer is written back, and the unit owes none (R24, R150). -/
theorem permWaitStep_of_canonical {p : Params} {l : Lanes} (hl : canonicalLanes p l = true)
    (s : State) : permWaitStep p l s = .next (writeBack l (setUnit none s)) := by
  simp [permWaitStep, hl]

/-- The absorb path: `absorb_pos` reset, back to ABS_ELEM (R129, R150). -/
theorem writeBack_of_absorb (l : Lanes) {s : State} (hop : s.ctrl.curOp = .absorb) :
    writeBack l s =
      goto .absElem { s with arch := { s.arch with lanes := l, absorbPos := 0 } } := by
  rw [writeBack, hop]

/-- The squeeze path: both cursors reset, back to SQZ_ELEM (R129, R150). -/
theorem writeBack_of_squeeze (l : Lanes) {s : State} (hop : s.ctrl.curOp = .squeeze) :
    writeBack l s =
      goto .sqzElem
        { s with arch := { s.arch with lanes := l, squeezePos := 0, absorbPos := 0 } } := by
  rw [writeBack, hop]

/-- Settles O44: the edge is the write-back of the unpacked word, and `cur_op` picks its path. -/
theorem permutationWriteBack : Obligations.PermutationWriteBack := by
  unfold Obligations.PermutationWriteBack
  intro pins s v hrst hprsp hphase hv
  have ready : (outputs Config.hw pins.rst s).prspReady = true := by
    rw [hrst]
    exact (prspReady_iff s.ctrl).2 hphase
  have edge : clockEdge Config.hw pins s =
      .next (writeBack (unpackLanes Config.hw v) (setUnit none s)) :=
    (clockEdge_permWait hrst hprsp hphase).trans
      (permWaitStep_of_canonical (canonicalLanes_unpackLanes hw_valid hv) s)
  refine ⟨ready, unpackLanes Config.hw v, unpackLanes_getElem Config.hw v, fun hop => ?_,
    fun hop => ?_⟩
  · exact edge.trans (congrArg _ (writeBack_of_absorb (s := setUnit none s) _ hop))
  · exact edge.trans (congrArg _ (writeBack_of_squeeze (s := setUnit none s) _ hop))

end Sys2Proof.Proofs
end

section
/-! Errors and the `fault` register (R180 to R182): every command, and a malformed header, ends on the
engine that its tests saw, which START has cleared before; an error is `set_fault` on it, and a success
leaves its `fault`. -/

namespace Sys2Proof.Proofs

open Sys2Proof Sys2Proof.Machine Sys2Proof.Laws

/-! ## How a command ends -/

/-- `t` ends a command whose tests saw `a`: its outcome has gone to `fault` by `set_fault` (R181), and
if that is an error, nothing else has changed (R180). -/
structure RecordsOutcome (a : Arch) (t : State) : Prop where
  fault : t.arch.fault = (setFault t.ctrl.pend a).fault
  arch : t.ctrl.pend ≠ .ok → t.arch = setFault t.ctrl.pend a

/-- OK is no error: `set_fault` of it leaves `fault` (R181). -/
theorem setFault_ok_fault (a : Arch) : (setFault .ok a).fault = a.fault := by
  rw [setFault_fault]
  split
  next hnone => exact hnone.symm
  next => rfl

/-- Every error is raised through `set_fault` (R180, R181). -/
theorem recordsOutcome_raiseError (op : Op) (len : BitVec LEN_BITS) (c : Status) (s : State) :
    RecordsOutcome s.arch (raiseError op len c s) where
  fault := rfl
  arch := fun _ => rfl

/-- A success that leaves `fault` records its outcome (R181, R182). -/
theorem recordsOutcome_of_ok {a : Arch} {t : State} (hok : t.ctrl.pend = .ok)
    (hfault : t.arch.fault = a.fault) : RecordsOutcome a t where
  fault := by rw [hok, setFault_ok_fault, hfault]
  arch := fun herror => absurd hok herror

/-- R181's update of `fault`. -/
theorem RecordsOutcome.fault_eq {a : Arch} {t : State} (h : RecordsOutcome a t) :
    t.arch.fault = if a.fault = .ok then t.ctrl.pend else a.fault :=
  h.fault.trans (setFault_fault t.ctrl.pend a)

/-- R180's frame: an error changes nothing but `fault`. -/
theorem RecordsOutcome.arch_eq {a : Arch} {t : State} (h : RecordsOutcome a t)
    (herror : t.ctrl.pend ≠ .ok) : t.arch = { a with fault := t.arch.fault } := by
  rw [h.fault_eq, h.arch herror, setFault_eq]

/-! ## The commands -/

/-- The architectural state that a command's tests see: START has cleared it before (R90, R92). -/
def testedArch (i : Instr) (s : State) : Arch := if i.op = .start then Arch.reset else s.arch

theorem testedArch_of_start {i : Instr} (h : i.op = .start) (s : State) :
    testedArch i s = Arch.reset := if_pos h

theorem testedArch_of_ne_start {i : Instr} (h : i.op ≠ .start) (s : State) :
    testedArch i s = s.arch := if_neg h

/-- START ends on the cleared engine (R92, R182). -/
theorem startWith_recordsOutcome {p : Params} {pattern : List Nat} {tag : Nat} {s t : State}
    (h : startWith p pattern tag s = .next t) : RecordsOutcome Arch.reset t := by
  rcases startWith_cases p pattern tag s with
    ⟨-, hr⟩ | ⟨-, -, hr⟩ | ⟨-, -, -, hr⟩ | ⟨-, -, -, hr⟩ <;> rw [hr] at h <;> cases h
  · exact recordsOutcome_raiseError _ _ .capacity (startClear s)
  · exact recordsOutcome_raiseError _ _ .badPattern
      { startClear s with ctrl := { (startClear s).ctrl with wrIdx := firstIllegal pattern } }
  · exact recordsOutcome_of_ok rfl rfl

/-- ABSORB ends on the engine it met (R102, R107). -/
theorem exec_absorb_recordsOutcome {input : List Nat} {s t : State}
    (h : exec (.absorb input) s = .next t) : RecordsOutcome s.arch t := by
  rcases exec_absorb_next h with ⟨c, -, rfl⟩ | rfl
  · exact recordsOutcome_raiseError _ _ c s
  · obtain ⟨l, pos, asked, hloop⟩ := absorbElems_frame Config.hw input s
    exact recordsOutcome_of_ok rfl (by rw [hloop]; rfl)

/-- The element loop of SQUEEZE leaves `fault` (R111). -/
theorem squeezeElems_fault {p : Params} {n : Nat} {s u : State} (h : squeezeElems p n s = .ok u)
    (hroom : s.arch.outLen + n ≤ p.outMax) : u.arch.fault = s.arch.fault := by
  obtain ⟨l, apos, spos, o, asked, hloop⟩ := squeezeElems_frame p n s hroom
  rw [hloop] at h
  cases h
  rfl

/-- SQUEEZE ends on the engine it met (R111, R112). -/
theorem squeezeWith_recordsOutcome {p : Params} {s t : State} (h : squeezeWith p s = .next t) :
    RecordsOutcome s.arch t := by
  rcases squeezeWith_cases p s with
    ⟨-, hr⟩ | ⟨-, -, hr⟩ | ⟨-, -, -, hr⟩ | ⟨-, -, hroom, u, hu, hr⟩ <;> rw [hr] at h <;> cases h
  · exact recordsOutcome_raiseError _ _ .patternExhausted s
  · exact recordsOutcome_raiseError _ _ .capacity s
  · have kept : u.arch.fault = s.arch.fault := squeezeElems_fault hu hroom
    exact recordsOutcome_of_ok rfl kept

/-- FINISH never fails, and keeps `fault` (R120, R182). -/
theorem execFinish_recordsOutcome {s t : State} (h : execFinish s = .next t) :
    RecordsOutcome s.arch t := by
  cases h
  exact recordsOutcome_of_ok rfl rfl

/-- Every command that answers ends on the engine its tests saw (R180, R181). -/
theorem exec_recordsOutcome {i : Instr} {s t : State} (h : exec i s = .next t) :
    RecordsOutcome (testedArch i s) t := by
  cases i with
  | start pattern tag => exact startWith_recordsOutcome (p := Config.hw) h
  | absorb input => exact exec_absorb_recordsOutcome h
  | squeeze => exact squeezeWith_recordsOutcome (p := Config.hw) h
  | finish => exact execFinish_recordsOutcome h

/-- A malformed header ends in BadCommand on the engine it met (R65, R175). -/
theorem execMalformed_recordsOutcome {h : Header} {s t : State} (ht : execMalformed h s = .next t) :
    t.ctrl.pend = .badCommand ∧ RecordsOutcome s.arch t := by
  cases ht
  exact ⟨rfl, recordsOutcome_raiseError _ _ .badCommand s⟩

/-- Settles O29: an error is `set_fault` on the engine that the tests saw. -/
theorem errorsChangeOnlyFault : Obligations.ErrorsChangeOnlyFault := by
  unfold Obligations.ErrorsChangeOnlyFault
  refine ⟨fun i s t hexec herror => ⟨fun hop => ?_, fun hop => ?_⟩, fun h s t hbad => ?_⟩
  · have ends := exec_recordsOutcome hexec
    rw [testedArch_of_ne_start hop] at ends
    exact ends.arch_eq herror
  · have ends := exec_recordsOutcome hexec
    rw [testedArch_of_start hop] at ends
    exact (ends.arch herror).trans (setFault_reset t.ctrl.pend)
  · obtain ⟨hpend, ends⟩ := execMalformed_recordsOutcome hbad
    exact ends.arch_eq (by rw [hpend]; decide)

/-- Settles O30: the outcome goes to `fault` by `set_fault`, and START's tests see a `fault` that is
cleared. -/
theorem faultKeepsTheFirstError : Obligations.FaultKeepsTheFirstError := by
  unfold Obligations.FaultKeepsTheFirstError
  refine ⟨fun i s t hexec => ?_, fun h s t hbad => ?_⟩
  · have update := (exec_recordsOutcome hexec).fault_eq
    by_cases hop : i.op = .start
    · rw [testedArch_of_start hop] at update
      exact update.trans (if_pos hop).symm
    · rw [testedArch_of_ne_start hop] at update
      exact update.trans (if_neg hop).symm
  · obtain ⟨hpend, ends⟩ := execMalformed_recordsOutcome hbad
    rw [← hpend]
    exact ends.fault_eq

end Sys2Proof.Proofs
end

section
/-! The header and its row of the opcode map (R62, R65, R74), and decoding against encoding (R66, R68,
R69): a header is composed of its four fields, a row of the map tests the reserved fields and the
opcode, and what is decoded is the payload that the header announces. -/

namespace Sys2Proof.Proofs

open Sys2Proof Sys2Proof.Machine Sys2Proof.Laws

/-! ## The fields of a header -/

/-- No opcode value is unassigned (R63). -/
theorem code_ofCode (c : BitVec 2) : (Op.ofCode c).code = c := by
  revert c; decide

theorem code_hdrOp (h : Header) : (hdrOp h).code = h.extractLsb' 0 2 := code_ofCode _

/-- A header is its fields, `rsv1` first (R62). -/
theorem header_eq_fields (h : Header) : hdrRsv1 h ++ hdrLen h ++ hdrRsv0 h ++ (hdrOp h).code = h := by
  rw [code_hdrOp, hdrRsv1, hdrLen, hdrRsv0,
    BitVec.extractLsb'_append_extractLsb'_eq_extractLsb' (start₁ := 8) (len₁ := 16) rfl,
    BitVec.extractLsb'_append_extractLsb'_eq_extractLsb' (start₁ := 2) (len₁ := 6) rfl,
    BitVec.extractLsb'_append_extractLsb'_eq_extractLsb' (start₁ := 0) (len₁ := 2) rfl]
  exact BitVec.extractLsb'_eq_self

/-- A header with the reserved fields 0 is composed of its opcode and its count (R62). -/
theorem eq_mkHeader_iff {h : Header} {op : Op} {len : BitVec LEN_BITS} :
    h = mkHeader op len ↔ hdrRsv0 h = 0 ∧ hdrRsv1 h = 0 ∧ hdrOp h = op ∧ hdrLen h = len := by
  constructor
  · rintro rfl
    exact ⟨hdrRsv0_mkHeader op len, hdrRsv1_mkHeader op len, hdrOp_mkHeader op len,
      hdrLen_mkHeader op len⟩
  · rintro ⟨h0, h1, rfl, rfl⟩
    have fields := header_eq_fields h
    rw [h0, h1] at fields
    exact fields.symm

/-- The fields of a header in numbers (R62). -/
theorem hdrRsv0_toNat (h : Header) : (hdrRsv0 h).toNat = h.toNat / 4 % 64 := by
  simp [hdrRsv0, Nat.shiftRight_eq_div_pow]

theorem hdrLen_toNat (h : Header) : (hdrLen h).toNat = h.toNat / 256 % 65536 := by
  simp [hdrLen, LEN_BITS, Nat.shiftRight_eq_div_pow]

theorem hdrRsv1_toNat (h : Header) : (hdrRsv1 h).toNat = h.toNat / 2 ^ 24 := by
  have := h.isLt
  simp only [hdrRsv1, BitVec.extractLsb'_toNat, Nat.shiftRight_eq_div_pow]
  omega

theorem code_hdrOp_toNat (h : Header) : (hdrOp h).code.toNat = h.toNat % 4 := by
  simp [code_hdrOp]

theorem code_toNat_eq_iff (op op' : Op) : op.code.toNat = op'.code.toNat ↔ op = op' := by
  cases op <;> cases op' <;> decide

/-- The opcode in numbers (R62, R63). -/
theorem hdrOp_eq_iff (h : Header) (op : Op) : hdrOp h = op ↔ h.toNat % 4 = op.code.toNat := by
  rw [← code_hdrOp_toNat, code_toNat_eq_iff]

/-- R65, by fields. -/
theorem hdrWellFormed_iff (h : Header) :
    hdrWellFormed h = true ↔
      hdrRsv0 h = 0 ∧ hdrRsv1 h = 0 ∧ (hdrOp h = .start ∨ hdrOp h = .absorb ∨ hdrLen h = 0) := by
  simp only [hdrWellFormed, Bool.and_eq_true, Bool.or_eq_true, beq_iff_eq, and_assoc, or_assoc]

/-- `paylen` by the opcode (R66). -/
theorem paylen_eq (h : Header) {op : Op} :
    hdrOp h = op → paylen h = match op with
      | .start => (hdrLen h).toNat + 1
      | .absorb => (hdrLen h).toNat
      | .squeeze => 0
      | .finish => 0 := by
  rintro rfl; rfl

/-- A count is the number that its field holds (R64). -/
theorem ofNat_toNat_len (len : BitVec LEN_BITS) : BitVec.ofNat 16 len.toNat = len := by
  rw [BitVec.ofNat_toNat, BitVec.setWidth_eq]

/-! ## The rows of the opcode map -/

/-- What the mask of START and ABSORB leaves of a header: all fields but `len` (R74). -/
theorem masked_fields (h : Header) :
    hdrRsv0 (h &&& 0xFF0000FF#32) = hdrRsv0 h ∧ hdrRsv1 (h &&& 0xFF0000FF#32) = hdrRsv1 h ∧
      hdrOp (h &&& 0xFF0000FF#32) = hdrOp h ∧ hdrLen (h &&& 0xFF0000FF#32) = 0 := by
  have rsv0 : (0xFF0000FF#32).extractLsb' 2 6 = BitVec.allOnes 6 := by decide
  have rsv1 : (0xFF0000FF#32).extractLsb' 24 8 = BitVec.allOnes 8 := by decide
  have op : (0xFF0000FF#32).extractLsb' 0 2 = BitVec.allOnes 2 := by decide
  have len : (0xFF0000FF#32).extractLsb' 8 16 = 0#16 := by decide
  simp only [hdrRsv0, hdrRsv1, hdrOp, hdrLen, BitVec.extractLsb'_and, rsv0, rsv1, op, len,
    BitVec.and_allOnes, BitVec.and_zero]
  exact ⟨trivial, trivial, trivial, rfl⟩

/-- The row of the opcode map of each command (R74). -/
def rowOf : Op → OpRow
  | .start => ⟨.start, 0xFF0000FF#32, mkHeader .start 0⟩
  | .absorb => ⟨.absorb, 0xFF0000FF#32, mkHeader .absorb 0⟩
  | .squeeze => ⟨.squeeze, BitVec.allOnes 32, mkHeader .squeeze 0⟩
  | .finish => ⟨.finish, BitVec.allOnes 32, mkHeader .finish 0⟩

theorem opcodeMap_eq_rows :
    opcodeMap = [rowOf .start, rowOf .absorb, rowOf .squeeze, rowOf .finish] := by decide

theorem masked_eq_mkHeader_iff (h : Header) (op : Op) :
    h &&& 0xFF0000FF#32 = mkHeader op 0 ↔ hdrRsv0 h = 0 ∧ hdrRsv1 h = 0 ∧ hdrOp h = op := by
  obtain ⟨rsv0, rsv1, hop, len⟩ := masked_fields h
  rw [eq_mkHeader_iff, rsv0, rsv1, hop, len, and_iff_left rfl]

/-- A row holds exactly the well-formed headers of its opcode (R65, R74). -/
theorem covers_rowOf_iff (h : Header) (op : Op) :
    (rowOf op).covers h = true ↔ hdrWellFormed h = true ∧ hdrOp h = op := by
  rw [hdrWellFormed_iff, OpRow.covers, beq_iff_eq]
  cases op with
  | start => rw [rowOf, masked_eq_mkHeader_iff]; grind
  | absorb => rw [rowOf, masked_eq_mkHeader_iff]; grind
  | squeeze => rw [rowOf, BitVec.and_allOnes, eq_mkHeader_iff]; grind
  | finish => rw [rowOf, BitVec.and_allOnes, eq_mkHeader_iff]; grind

/-- The row of a header is the row of its opcode, and a malformed header has none (R65, R74). -/
theorem find_row (h : Header) :
    opcodeMap.find? (·.covers h) = if hdrWellFormed h = true then some (rowOf (hdrOp h)) else none := by
  have covers (op : Op) : (rowOf op).covers h = decide (hdrWellFormed h = true ∧ hdrOp h = op) := by
    rw [Bool.eq_iff_iff, covers_rowOf_iff, decide_eq_true_iff]
  rw [opcodeMap_eq_rows]
  cases hw : hdrWellFormed h with
  | false => simp [List.find?, covers, hw]
  | true => cases hop : hdrOp h <;> simp [List.find?, covers, hw, hop]

/-! ## The decoder -/

/-- A malformed header is rejected by name, whatever its payload (R65). -/
theorem decode_malformed {h : Header} (hw : hdrWellFormed h = false) (din : List Nat) :
    decode h din = .error (malformedName h) := by
  rw [decode, find_row, hw]; rfl

theorem malformedName_ne_payloadShort (h : Header) : malformedName h ≠ .payloadShort := by
  unfold malformedName
  split
  · decide
  · split <;> decide

/-- The decoder of each row (R68, R69). -/
def decodeAs (op : Op) (h : Header) (din : List Nat) : Except DecodeError (Instr × List Nat) :=
  match op with
  | .start => decodeStart (hdrLen h).toNat din
  | .absorb => decodeAbsorb (hdrLen h).toNat din
  | .squeeze => .ok (.squeeze, din)
  | .finish => .ok (.finish, din)

/-- A well-formed header decodes by its opcode (R74). -/
theorem decode_wellFormed {h : Header} (hw : hdrWellFormed h = true) {op : Op} (hop : hdrOp h = op)
    (din : List Nat) : decode h din = decodeAs op h din := by
  rw [decode, find_row, hw, hop]
  cases op <;> rfl

/-- START's payload is read off when it is all there (R68). -/
theorem decodeStart_append_tag {pattern : List Nat} {n : Nat} (hn : pattern.length = n) (tag : Nat)
    (rest : List Nat) :
    decodeStart n (pattern ++ tag :: rest) = .ok (.start pattern tag, rest) := by
  subst hn
  simp [decodeStart]

/-- START's payload is its pattern words and then its last word, the tag (R68). -/
theorem take_append_last {payload : List Nat} {n : Nat} (hlen : payload.length = n + 1) :
    payload.take n ++ [payload.getD n 0] = payload := by
  rw [List.getD_eq_getElem _ _ (by omega), ← List.take_succ_eq_append_getElem,
    List.take_of_length_le hlen.le]

/-- The command that a well-formed header with its payload stands for (R68, R69). -/
def commandOf (h : Header) (payload : List Nat) : Instr :=
  match hdrOp h with
  | .start => .start (payload.take (hdrLen h).toNat) (payload.getD (hdrLen h).toNat 0)
  | .absorb => .absorb payload
  | .squeeze => .squeeze
  | .finish => .finish

theorem commandOf_op (h : Header) (payload : List Nat) : (commandOf h payload).op = hdrOp h := by
  unfold commandOf
  cases hdrOp h <;> rfl

/-- A well-formed header with fewer words than it announces is not decoded (R66). -/
theorem decode_short {h : Header} (hw : hdrWellFormed h = true) {din : List Nat}
    (hlen : din.length < paylen h) : decode h din = .error .payloadShort := by
  cases hop : hdrOp h <;> rw [decode_wellFormed hw hop] <;> rw [paylen_eq h hop] at hlen <;>
    dsimp only [decodeAs] at hlen ⊢
  case start =>
    have : din.drop (hdrLen h).toNat = [] := List.drop_eq_nil_of_le (by simpa using hlen)
    simp only [decodeStart, this]
  case absorb => exact if_pos hlen
  case squeeze => exact absurd hlen (Nat.not_lt_zero _)
  case finish => exact absurd hlen (Nat.not_lt_zero _)

/-- A well-formed header with the words it announces decodes to its command, and the words after them
are left (R66, R74). -/
theorem decode_offered {h : Header} (hw : hdrWellFormed h = true) {payload : List Nat}
    (hlen : payload.length = paylen h) (rest : List Nat) :
    decode h (payload ++ rest) = .ok (commandOf h payload, rest) := by
  unfold commandOf
  cases hop : hdrOp h <;> rw [decode_wellFormed hw hop] <;> rw [paylen_eq h hop] at hlen <;>
    dsimp only [decodeAs] at hlen ⊢
  case start =>
    have length : (payload.take (hdrLen h).toNat).length = (hdrLen h).toNat := by
      rw [List.length_take]; omega
    conv_lhs => rw [← take_append_last hlen, List.append_assoc, List.singleton_append]
    exact decodeStart_append_tag length _ _
  case absorb =>
    simp [decodeAbsorb, ← hlen]
  case squeeze => rw [List.eq_nil_of_length_eq_zero hlen]; rfl
  case finish => rw [List.eq_nil_of_length_eq_zero hlen]; rfl

/-- The same of any words on DIN (R66). -/
theorem decode_whole {h : Header} (hw : hdrWellFormed h = true) {din : List Nat}
    (hlen : paylen h ≤ din.length) :
    decode h din = .ok (commandOf h (din.take (paylen h)), din.drop (paylen h)) := by
  have := decode_offered hw (payload := din.take (paylen h)) (by rw [List.length_take]; omega)
    (din.drop (paylen h))
  rwa [List.take_append_drop] at this

/-- What decodes has a well-formed header and its whole payload (R65, R66). -/
theorem of_decode_ok {h : Header} {din : List Nat} {r : Instr × List Nat}
    (hd : decode h din = .ok r) : hdrWellFormed h = true ∧ paylen h ≤ din.length ∧
      r = (commandOf h (din.take (paylen h)), din.drop (paylen h)) := by
  cases hw : hdrWellFormed h with
  | false => rw [decode_malformed hw] at hd; cases hd
  | true =>
    by_cases hlen : paylen h ≤ din.length
    · rw [decode_whole hw hlen] at hd; cases hd; exact ⟨rfl, hlen, rfl⟩
    · rw [decode_short hw (by omega)] at hd; cases hd

/-- Encoding a command that a well-formed header stands for gives the header and the payload back. -/
theorem encode_commandOf {h : Header} (hw : hdrWellFormed h = true) {payload : List Nat}
    (hlen : payload.length = paylen h) :
    (commandOf h payload).wellFormed = true ∧ encode (commandOf h payload) = (h, payload) := by
  obtain ⟨h0, h1, hcount⟩ := (hdrWellFormed_iff h).1 hw
  have hlt := (hdrLen h).isLt
  unfold commandOf
  cases hop : hdrOp h <;> rw [paylen_eq h hop] at hlen <;> rw [hop] at hcount <;> dsimp only at hlen ⊢
  case start =>
    have length : (payload.take (hdrLen h).toNat).length = (hdrLen h).toNat := by
      rw [List.length_take]; omega
    have header : h = mkHeader .start (BitVec.ofNat 16 (hdrLen h).toNat) :=
      eq_mkHeader_iff.2 ⟨h0, h1, hop, (ofNat_toNat_len (hdrLen h)).symm⟩
    refine ⟨?_, ?_⟩
    · rw [Instr.wellFormed, length]; exact decide_eq_true hlt
    · rw [encode, encodeHeader, encodePayload, Instr.len, length, take_append_last hlen]
      exact Prod.ext header.symm rfl
  case absorb =>
    have header : h = mkHeader .absorb (BitVec.ofNat 16 (hdrLen h).toNat) :=
      eq_mkHeader_iff.2 ⟨h0, h1, hop, (ofNat_toNat_len (hdrLen h)).symm⟩
    refine ⟨?_, ?_⟩
    · simp only [Instr.wellFormed, lenFits, hlen]; exact decide_eq_true hlt
    · rw [encode, encodeHeader, encodePayload, Instr.len, hlen]
      exact Prod.ext header.symm rfl
  case squeeze =>
    have header : h = mkHeader .squeeze 0 := eq_mkHeader_iff.2 ⟨h0, h1, hop, by simpa using hcount⟩
    rw [List.eq_nil_of_length_eq_zero hlen]
    exact ⟨rfl, Prod.ext header.symm rfl⟩
  case finish =>
    have header : h = mkHeader .finish 0 := eq_mkHeader_iff.2 ⟨h0, h1, hop, by simpa using hcount⟩
    rw [List.eq_nil_of_length_eq_zero hlen]
    exact ⟨rfl, Prod.ext header.symm rfl⟩

/-- What a well-formed command's header says of it (R62, R64 to R66). -/
theorem headerFields : ∀ i : Instr, HeaderFields.Statement i
  | .start pattern tag => HeaderFields.start pattern tag
  | .absorb input => HeaderFields.absorb input
  | .squeeze => HeaderFields.squeeze
  | .finish => HeaderFields.finish

/-- The header and the payload of a well-formed command stand for that command. -/
theorem commandOf_encode {i : Instr} (hi : i.wellFormed = true) :
    commandOf (encodeHeader i) (encodePayload i) = i := by
  obtain ⟨hop, hlen, -, -⟩ := headerFields i hi
  unfold commandOf
  rw [hop, hlen]
  cases i with
  | start pattern tag =>
    have length : (BitVec.ofNat 16 pattern.length).toNat = pattern.length := toNat_ofNat_len hi
    simp [Instr.op, Instr.len, encodePayload, length]
  | absorb input => rfl
  | squeeze => rfl
  | finish => rfl

/-! ## The statements -/

/-- Settles O2: the header of a well-formed command is well formed and announces the payload sent, so it
decodes to the command that header and payload stand for. -/
theorem decodeEncodeAgree : Obligations.DecodeEncodeAgree := by
  unfold Obligations.DecodeEncodeAgree
  intro i rest hi
  obtain ⟨-, -, hw, hlen⟩ := headerFields i hi
  have decoded := decode_offered hw hlen.symm rest
  rwa [commandOf_encode hi] at decoded

/-- Settles O3: what decodes is the command that the header and its payload stand for. -/
theorem encodeDecodeAgree : Obligations.EncodeDecodeAgree := by
  unfold Obligations.EncodeDecodeAgree
  intro h din i rest hd
  obtain ⟨hw, hlen, hr⟩ := of_decode_ok hd
  obtain ⟨rfl, rfl⟩ := Prod.mk.inj hr
  obtain ⟨wf, enc⟩ := encode_commandOf hw (payload := din.take (paylen h))
    (by rw [List.length_take]; omega)
  exact ⟨wf, enc, rfl, hlen⟩

/-- R65, by the number that the header is. -/
theorem hdrWellFormed_iff_toNat (h : Header) :
    hdrWellFormed h = true ↔ h.toNat / 4 % 64 = 0 ∧ h.toNat / 2 ^ 24 = 0 ∧
      (h.toNat % 4 = 0 ∨ h.toNat % 4 = 1 ∨ h.toNat / 256 % 65536 = 0) := by
  rw [hdrWellFormed_iff, ← hdrRsv0_toNat, ← hdrRsv1_toNat, ← hdrLen_toNat, hdrOp_eq_iff, hdrOp_eq_iff,
    ← BitVec.toNat_inj, ← BitVec.toNat_inj, ← BitVec.toNat_inj]
  rfl

/-- Settles O4: a header is well formed exactly if some row holds it; each clause is read from
`covers_rowOf_iff` and the decoder's two cases. -/
theorem opcodeRowsDecideTheHeader : Obligations.OpcodeRowsDecideTheHeader := by
  unfold Obligations.OpcodeRowsDecideTheHeader
  intro h
  have start : h &&& 0xFF0000FF#32 = 0x00000000#32 ↔ hdrWellFormed h = true ∧ hdrOp h = .start :=
    beq_iff_eq.symm.trans (covers_rowOf_iff h .start)
  have absorb : h &&& 0xFF0000FF#32 = 0x00000001#32 ↔ hdrWellFormed h = true ∧ hdrOp h = .absorb :=
    beq_iff_eq.symm.trans (covers_rowOf_iff h .absorb)
  have squeeze : h = 0x00000002#32 ↔ hdrWellFormed h = true ∧ hdrOp h = .squeeze := by
    rw [← covers_rowOf_iff, OpRow.covers, rowOf, BitVec.and_allOnes, beq_iff_eq]; rfl
  have finish : h = 0x00000003#32 ↔ hdrWellFormed h = true ∧ hdrOp h = .finish := by
    rw [← covers_rowOf_iff, OpRow.covers, rowOf, BitVec.and_allOnes, beq_iff_eq]; rfl
  refine ⟨?_, hdrWellFormed_iff_toNat h, fun hr => (start.1 hr).2, fun hr => (absorb.1 hr).2,
    fun hr => (squeeze.1 hr).2, fun hr => (finish.1 hr).2, fun din => ⟨fun hw => ?_, fun hw => ?_⟩⟩
  · rw [start, absorb, squeeze, finish, ← and_or_left, ← and_or_left, ← and_or_left]
    exact (and_iff_left (by cases hdrOp h <;> decide)).symm
  · exact ⟨_, decode_malformed hw din, malformedName_ne_payloadShort h⟩
  · by_cases hlen : din.length < paylen h
    · exact .inl ⟨hlen, decode_short hw hlen⟩
    · exact .inr ⟨_, _, decode_whole hw (by omega), commandOf_op h _⟩

end Sys2Proof.Proofs
end

section
/-! One rising edge, phase by phase (R140 to R154): an equation for each phase of `clockEdge` and of the
DIN transfer, and everything that the checks at acceptance can answer (R142). -/

namespace Sys2Proof.Proofs

open Sys2Proof Sys2Proof.Machine Sys2Proof.Laws

section Phases

variable {p : Params} {pins : Pins p} {s : State}

theorem clockEdge_reset (hrst : pins.rst = true) : clockEdge p pins s = .next (resetBlock s) := by
  simp only [clockEdge, hrst, if_true]

theorem clockEdge_idle (hrst : pins.rst = false) (hph : s.ctrl.phase = .idle) :
    clockEdge p pins s = pins.cmd.elim (.next s) fun h => idleStep p h s := by
  simp only [clockEdge, hrst, hph]
  cases pins.cmd <;> rfl

theorem clockEdge_startClr (hrst : pins.rst = false) (hph : s.ctrl.phase = .startClr) :
    clockEdge p pins s = .next (startClrStep p s) := by
  simp only [clockEdge, hrst, hph]
  rfl

theorem clockEdge_startPat (hrst : pins.rst = false) (hph : s.ctrl.phase = .startPat) :
    clockEdge p pins s = pins.din.elim (.next s) fun w => dinStep p w.toNat s := by
  simp only [clockEdge, hrst, hph]
  cases pins.din <;> rfl

theorem clockEdge_startTag (hrst : pins.rst = false) (hph : s.ctrl.phase = .startTag) :
    clockEdge p pins s = pins.din.elim (.next s) fun w => dinStep p w.toNat s := by
  simp only [clockEdge, hrst, hph]
  cases pins.din <;> rfl

/-! The two element phases: the arbiter grants at RATE, and the loop goes on below it (R128, R146,
R147). -/

theorem grant_absElem (hph : s.ctrl.phase = .absElem) :
    grant s.arch s.ctrl = if s.arch.absorbPos = sentinel then some .absorb else none := by
  simp [grant, sqzReq, absReq, hph]

theorem grant_sqzElem (hph : s.ctrl.phase = .sqzElem) :
    grant s.arch s.ctrl = if s.arch.squeezePos = sentinel then some .squeeze else none := by
  simp [grant, sqzReq, absReq, hph]

/-- A cursor that addresses a lane is below RATE. -/
theorem ne_sentinel_of_rateLane {pos : Cursor} {i : Fin WIDTH} (h : rateLane pos = some i) :
    pos ≠ sentinel := by
  rintro rfl
  cases h

theorem clockEdge_absElem_rate (hrst : pins.rst = false) (hph : s.ctrl.phase = .absElem)
    (hpos : s.arch.absorbPos = sentinel) : clockEdge p pins s = .next (goto .permReq s) := by
  have hgrant := grant_absElem hph
  rw [if_pos hpos] at hgrant
  simp only [clockEdge, hrst, hph, hgrant]
  rfl

theorem clockEdge_absElem_lane (hrst : pins.rst = false) (hph : s.ctrl.phase = .absElem)
    {i : Fin WIDTH} (hi : rateLane s.arch.absorbPos = some i) :
    clockEdge p pins s = pins.din.elim (.next s) fun w => dinStep p w.toNat s := by
  have hgrant := grant_absElem hph
  rw [if_neg (ne_sentinel_of_rateLane hi)] at hgrant
  simp only [clockEdge, hrst, hph, hgrant]
  cases pins.din <;> rfl

theorem clockEdge_sqzElem_rate (hrst : pins.rst = false) (hph : s.ctrl.phase = .sqzElem)
    (hpos : s.arch.squeezePos = sentinel) : clockEdge p pins s = .next (goto .permReq s) := by
  have hgrant := grant_sqzElem hph
  rw [if_pos hpos] at hgrant
  simp only [clockEdge, hrst, hph, hgrant]
  rfl

theorem clockEdge_sqzElem_lane (hrst : pins.rst = false) (hph : s.ctrl.phase = .sqzElem)
    {i : Fin WIDTH} (hi : rateLane s.arch.squeezePos = some i) :
    clockEdge p pins s = sqzElemStep p i s := by
  have hgrant := grant_sqzElem hph
  rw [if_neg (ne_sentinel_of_rateLane hi)] at hgrant
  simp only [clockEdge, hrst, hph, hgrant, hi]
  rfl

theorem clockEdge_permReq (hrst : pins.rst = false) (hph : s.ctrl.phase = .permReq) :
    clockEdge p pins s = .next (if pins.preqReady then permReqStep s else s) := by
  simp only [clockEdge, hrst, hph]
  rfl

theorem clockEdge_permWait_elim (hrst : pins.rst = false) (hph : s.ctrl.phase = .permWait) :
    clockEdge p pins s = pins.prsp.elim (.next s) fun v => permWaitStep p (unpackLanes p v) s := by
  simp only [clockEdge, hrst, hph]
  cases pins.prsp <;> rfl

theorem clockEdge_finClr (hrst : pins.rst = false) (hph : s.ctrl.phase = .finClr) :
    clockEdge p pins s = .next (finClrStep s) := by
  simp only [clockEdge, hrst, hph]
  rfl

theorem clockEdge_drain_end (hrst : pins.rst = false) (hph : s.ctrl.phase = .drain)
    (hrem : s.ctrl.rem = 0) : clockEdge p pins s = .next (goto .resp s) := by
  simp only [clockEdge, hrst, hph, hrem]
  rfl

theorem clockEdge_drain_word (hrst : pins.rst = false) (hph : s.ctrl.phase = .drain)
    (hrem : s.ctrl.rem ≠ 0) :
    clockEdge p pins s = pins.din.elim (.next s) fun w => dinStep p w.toNat s := by
  simp only [clockEdge, hrst, hph, hrem]
  cases pins.din <;> rfl

theorem clockEdge_resp (hrst : pins.rst = false) (hph : s.ctrl.phase = .resp) :
    clockEdge p pins s = .next (if pins.rspReady then respStep s else s) := by
  simp only [clockEdge, hrst, hph]
  rfl

theorem clockEdge_dout (hrst : pins.rst = false) (hph : s.ctrl.phase = .dout) :
    clockEdge p pins s = if pins.doutReady then doutStep p s else .next s := by
  simp only [clockEdge, hrst, hph]
  rfl

/-! ## The DIN transfer -/

variable {w : Nat}

theorem dinStep_refused (hw : wordInContract p s.ctrl w = false) :
    dinStep p w s = .refused .wordNotCanonical := by
  simp only [dinStep, hw, Bool.not_false, if_true]

theorem dinStep_startPat (hw : wordInContract p s.ctrl w = true) (hph : s.ctrl.phase = .startPat) :
    dinStep p w s = startPatStep p w s := by
  simp only [dinStep, hw, hph]
  rfl

theorem dinStep_startTag (hw : wordInContract p s.ctrl w = true) (hph : s.ctrl.phase = .startTag) :
    dinStep p w s = .next (startTagStep w s) := by
  simp only [dinStep, hw, hph]
  rfl

theorem dinStep_absElem (hw : wordInContract p s.ctrl w = true) (hph : s.ctrl.phase = .absElem)
    {i : Fin WIDTH} (hi : rateLane s.arch.absorbPos = some i) :
    dinStep p w s = .next (absElemStep p i w s) := by
  simp only [dinStep, hw, hph, hi]
  rfl

theorem dinStep_drain (hw : wordInContract p s.ctrl w = true) (hph : s.ctrl.phase = .drain) :
    dinStep p w s = .next (countWord s) := by
  simp only [dinStep, hw, hph]
  rfl

end Phases

/-! ## The checks at acceptance -/

/-- Everything ABSORB's acceptance can answer (R102, R142, R42). -/
theorem acceptAbsorb_cases (p : Params) (s : State) :
    (s.arch.ioCount = s.arch.patternLen ∧
      acceptAbsorb p s = .next (errorTo .patternExhausted .drain s)) ∨
    (s.arch.ioCount ≠ s.arch.patternLen ∧ p.patternMax ≤ s.arch.ioCount ∧
      acceptAbsorb p s = .fault .patIndex) ∨
    (s.arch.ioCount ≠ s.arch.patternLen ∧ s.arch.ioCount < p.patternMax ∧
      Store.read s.arch.pat s.arch.ioCount ≠ s.ctrl.curLen.toNat ∧
      acceptAbsorb p s = .next (errorTo .patternMismatch .drain s)) ∨
    (s.arch.ioCount ≠ s.arch.patternLen ∧ s.arch.ioCount < p.patternMax ∧
      Store.read s.arch.pat s.arch.ioCount = s.ctrl.curLen.toNat ∧
      acceptAbsorb p s = .next (goto .absElem s)) := by
  unfold acceptAbsorb patRead
  by_cases he : s.arch.ioCount = s.arch.patternLen
  · exact .inl ⟨he, if_pos he⟩
  · rw [if_neg he]
    by_cases hi : s.arch.ioCount < p.patternMax
    · rw [if_pos hi]
      by_cases hn : Store.read s.arch.pat s.arch.ioCount = s.ctrl.curLen.toNat
      · exact .inr (.inr (.inr ⟨he, hi, hn, if_neg (not_not.2 hn)⟩))
      · exact .inr (.inr (.inl ⟨he, hi, hn, if_pos hn⟩))
    · rw [if_neg hi]
      exact .inr (.inl ⟨he, Nat.not_lt.1 hi, rfl⟩)

/-- Everything SQUEEZE's acceptance can answer (R112, R142, R42). -/
theorem acceptSqueeze_cases (p : Params) (s : State) :
    (s.arch.ioCount = s.arch.patternLen ∧
      acceptSqueeze p s = .next (errorTo .patternExhausted .resp s)) ∨
    (s.arch.ioCount ≠ s.arch.patternLen ∧ p.patternMax ≤ s.arch.ioCount ∧
      acceptSqueeze p s = .fault .patIndex) ∨
    (s.arch.ioCount ≠ s.arch.patternLen ∧ s.arch.ioCount < p.patternMax ∧
      p.outMax < s.arch.outLen + Store.read s.arch.pat s.arch.ioCount ∧
      acceptSqueeze p s = .next (errorTo .capacity .resp s)) ∨
    (s.arch.ioCount ≠ s.arch.patternLen ∧ s.arch.ioCount < p.patternMax ∧
      s.arch.outLen + Store.read s.arch.pat s.arch.ioCount ≤ p.outMax ∧
      acceptSqueeze p s = .next (goto .sqzElem
        { s with ctrl := { s.ctrl with rem := Store.read s.arch.pat s.arch.ioCount } })) := by
  unfold acceptSqueeze patRead
  by_cases he : s.arch.ioCount = s.arch.patternLen
  · exact .inl ⟨he, if_pos he⟩
  · rw [if_neg he]
    by_cases hi : s.arch.ioCount < p.patternMax
    · rw [if_pos hi]
      by_cases hn : p.outMax < s.arch.outLen + Store.read s.arch.pat s.arch.ioCount
      · exact .inr (.inr (.inl ⟨he, hi, hn, if_pos hn⟩))
      · exact .inr (.inr (.inr ⟨he, hi, Nat.not_lt.1 hn, if_neg hn⟩))
    · rw [if_neg hi]
      exact .inr (.inl ⟨he, Nat.not_lt.1 hi, rfl⟩)

/-- What an accepted header begins, by its opcode (R142). -/
theorem idleStep_malformed {p : Params} {h : Header} (hw : hdrWellFormed h = false) (s : State) :
    idleStep p h s = .next (errorTo .badCommand .drain (acceptHeader h s)) := by
  simp only [idleStep, beginCommand, hw, Bool.not_false, if_true]

theorem idleStep_start {p : Params} {h : Header} (hw : hdrWellFormed h = true)
    (hop : hdrOp h = .start) (s : State) :
    idleStep p h s = .next (goto .startClr (acceptHeader h s)) := by
  simp only [idleStep, beginCommand, hw, hop]
  rfl

theorem idleStep_absorb {p : Params} {h : Header} (hw : hdrWellFormed h = true)
    (hop : hdrOp h = .absorb) (s : State) :
    idleStep p h s = acceptAbsorb p (acceptHeader h s) := by
  simp only [idleStep, beginCommand, hw, hop]
  rfl

theorem idleStep_squeeze {p : Params} {h : Header} (hw : hdrWellFormed h = true)
    (hop : hdrOp h = .squeeze) (s : State) :
    idleStep p h s = acceptSqueeze p (acceptHeader h s) := by
  simp only [idleStep, beginCommand, hw, hop]
  rfl

theorem idleStep_finish {p : Params} {h : Header} (hw : hdrWellFormed h = true)
    (hop : hdrOp h = .finish) (s : State) :
    idleStep p h s = .next (goto .finClr (acceptHeader h s)) := by
  simp only [idleStep, beginCommand, hw, hop]
  rfl

/-! ## The check of START_CLR -/

/-- Everything START_CLR can do (R91, R143). -/
theorem startClrStep_cases (p : Params) (s : State) :
    (p.patternMax < s.ctrl.curLen.toNat ∧
      startClrStep p s = errorTo .capacity .drain (startClear s)) ∨
    (s.ctrl.curLen.toNat ≤ p.patternMax ∧ s.ctrl.curLen.toNat = 0 ∧
      startClrStep p s = goto .startTag (startClear s)) ∨
    (s.ctrl.curLen.toNat ≤ p.patternMax ∧ 0 < s.ctrl.curLen.toNat ∧
      startClrStep p s = goto .startPat (startClear s)) := by
  unfold startClrStep startCheck
  rw [startClear_ctrl]
  by_cases hl : p.patternMax < s.ctrl.curLen.toNat
  · exact .inl ⟨hl, if_pos hl⟩
  · rw [if_neg hl]
    have hzero : s.ctrl.curLen = 0 ↔ s.ctrl.curLen.toNat = 0 := by
      rw [← BitVec.toNat_inj]; rfl
    by_cases he : s.ctrl.curLen.toNat = 0
    · exact .inr (.inl ⟨Nat.not_lt.1 hl, he, if_pos (hzero.2 he)⟩)
    · exact .inr (.inr ⟨Nat.not_lt.1 hl, Nat.pos_of_ne_zero he, if_neg fun h0 => he (hzero.1 h0)⟩)

end Sys2Proof.Proofs
end

section
/-! The invariant along the clock (R26, R42, R140): every micro-step keeps it and none leaves a store,
shown phase by phase; with it the ranges of the registers (R5, R107). -/

namespace Sys2Proof.Proofs

open Sys2Proof Sys2Proof.Machine Sys2Proof.Laws

/-! ## The parts of the invariant -/

/-- An answer that the invariant allows: a next state meets it, and nothing faults (R26, R42). -/
def SafeResult (p : Params) : Result → Prop
  | .next t => Inv p t
  | .fault _ => False
  | .refused _ => True

/-- The hidden counters are within their registers (R141). -/
structure CountersFit (p : Params) (c : Ctrl) : Prop where
  rem_le : c.rem ≤ 65536
  wrIdx_le : c.wrIdx ≤ p.patternMax
  doutIdx_le : c.doutIdx ≤ p.outMax

/-- What the invariant says in every phase but START's load and PERM_WAIT. -/
structure Sound (p : Params) (s : State) : Prop where
  arch : ArchInv p s.arch
  unit : s.ports.permUnit = none
  fit : CountersFit p s.ctrl

section Parts

variable {p : Params} {s : State}

theorem inv_fit (hinv : Inv p s) : CountersFit p s.ctrl := ⟨hinv.rem_le, hinv.wrIdx_le, hinv.doutIdx_le⟩

theorem inv_unit_none (hinv : Inv p s) (hph : s.ctrl.phase ≠ .permWait) :
    s.ports.permUnit = none := by rw [hinv.permUnit, if_neg hph]

/-- The invariant of the architectural state holds in every phase but START's load (R143 to R145). -/
theorem inv_archInv (hinv : Inv p s) (hpat : s.ctrl.phase ≠ .startPat)
    (htag : s.ctrl.phase ≠ .startTag) : ArchInv p s.arch := by
  have h := hinv.phase
  unfold PhaseInv at h
  cases hph : s.ctrl.phase <;> rw [hph] at h
  case idle => exact h
  case startPat => exact absurd hph hpat
  case startTag => exact absurd hph htag
  all_goals exact h.1

theorem inv_sound (hinv : Inv p s) (hpat : s.ctrl.phase ≠ .startPat)
    (htag : s.ctrl.phase ≠ .startTag) (hwait : s.ctrl.phase ≠ .permWait) : Sound p s :=
  ⟨inv_archInv hinv hpat htag, inv_unit_none hinv hwait, inv_fit hinv⟩

theorem inv_of_phase (hphase : PhaseInv p s.arch s.ctrl) (hunit : s.ports.permUnit = none)
    (hwait : s.ctrl.phase ≠ .permWait) (hfit : CountersFit p s.ctrl) : Inv p s where
  phase := hphase
  permUnit := by rw [hunit, if_neg hwait]
  rem_le := hfit.rem_le
  wrIdx_le := hfit.wrIdx_le
  doutIdx_le := hfit.doutIdx_le

theorem Sound.inv_idle (hs : Sound p s) (hph : s.ctrl.phase = .idle) : Inv p s :=
  inv_of_phase (by rw [PhaseInv, hph]; exact hs.arch) hs.unit (by rw [hph]; decide) hs.fit

end Parts

theorem inv_reset {p : Params} (hp : p.Valid) (s : State) : Inv p (resetBlock s) :=
  Sound.inv_idle ⟨archInv_reset hp, rfl, ⟨Nat.zero_le _, Nat.zero_le _, Nat.zero_le _⟩⟩ rfl

/-- Settles O50: the reset state is the reset edge's. -/
theorem invariantHoldsAtReset : Obligations.InvariantHoldsAtReset := inv_reset hw_valid State.reset

/-! ## Errors -/

/-- After an error `fault` is no longer NONE (R181). -/
theorem setFault_fault_ne_ok {c : Status} (hc : c ≠ .ok) (a : Arch) : (setFault c a).fault ≠ .ok := by
  rw [setFault_fault]
  split
  · exact hc
  · assumption

theorem Sound.errorTo {p : Params} {s : State} (hs : Sound p s) (c : Status) (ph : Phase) :
    Sound p (errorTo c ph s) :=
  ⟨archInv_setFault hs.arch c, hs.unit, hs.fit.rem_le, hs.fit.wrIdx_le, hs.fit.doutIdx_le⟩

/-- An error on the way to DRAIN (R142 to R144, R152). -/
theorem inv_errorTo_drain {p : Params} {s : State} (hs : Sound p s) {c : Status} (hc : c ≠ .ok) :
    Inv p (errorTo c .drain s) :=
  inv_of_phase ⟨archInv_setFault hs.arch c, hc, setFault_fault_ne_ok hc s.arch⟩ hs.unit
    (fun h => by cases h) (hs.errorTo c .drain).fit

/-- An error that has no payload to drain (R142). -/
theorem inv_errorTo_resp {p : Params} {s : State} (hs : Sound p s) {c : Status} (hc : c ≠ .ok)
    (hrem : s.ctrl.rem = 0) : Inv p (errorTo c .resp s) :=
  inv_of_phase ⟨archInv_setFault hs.arch c, hrem, fun _ => setFault_fault_ne_ok hc s.arch,
      fun _ hok => absurd hok hc⟩ hs.unit
    (fun h => by cases h) (hs.errorTo c .resp).fit

/-! ## IDLE -/

/-- A payload has at most 65536 words (R66). -/
theorem paylen_le (h : Header) : paylen h ≤ 65536 := by
  have hlt : (hdrLen h).toNat < 65536 := (hdrLen h).isLt
  unfold paylen
  cases hdrOp h <;> dsimp only <;> omega

theorem Sound.acceptHeader {p : Params} {s : State} (hs : Sound p s) (h : Header) :
    Sound p (acceptHeader h s) :=
  ⟨hs.arch, hs.unit, paylen_le h, hs.fit.wrIdx_le, hs.fit.doutIdx_le⟩

/-- Where ABSORB and SQUEEZE are accepted, there is an entry to read (R26, R42). -/
theorem archInv_live {p : Params} {a : Arch} (ha : ArchInv p a) (hne : a.ioCount ≠ a.patternLen) :
    a.ioCount < a.patternLen ∧ a.ioCount < p.patternMax := by
  have := ha.ioCount_le
  have := ha.patternLen_le
  omega

theorem acceptAbsorb_safe {p : Params} {s : State} (hs : Sound p s) (hop : s.ctrl.curOp = .absorb)
    (hpend : s.ctrl.pend = .ok) (hrem : s.ctrl.rem = s.ctrl.curLen.toNat) :
    SafeResult p (acceptAbsorb p s) := by
  rcases acceptAbsorb_cases p s with
    ⟨-, hr⟩ | ⟨hne, hmax, -⟩ | ⟨-, -, -, hr⟩ | ⟨hne, -, hentry, hr⟩
  · rw [hr]; exact inv_errorTo_drain hs (by decide)
  · exact absurd (archInv_live hs.arch hne).2 (Nat.not_lt.2 hmax)
  · rw [hr]; exact inv_errorTo_drain hs (by decide)
  · have hlive := (archInv_live hs.arch hne).1
    have hpos := (hs.arch.entry_legal _ hlive).1
    rw [hr]
    exact inv_of_phase
      ⟨hs.arch, hpend, hop, hlive, hentry, by simp only [goto_ctrl]; omega, hrem.le⟩
      hs.unit (fun h => by cases h) ⟨hs.fit.rem_le, hs.fit.wrIdx_le, hs.fit.doutIdx_le⟩

theorem acceptSqueeze_safe {p : Params} {s : State} (hs : Sound p s)
    (hop : s.ctrl.curOp = .squeeze) (hpend : s.ctrl.pend = .ok) (hrem : s.ctrl.rem = 0) :
    SafeResult p (acceptSqueeze p s) := by
  rcases acceptSqueeze_cases p s with
    ⟨-, hr⟩ | ⟨hne, hmax, -⟩ | ⟨-, -, -, hr⟩ | ⟨hne, -, hroom, hr⟩
  · rw [hr]; exact inv_errorTo_resp hs (by decide) hrem
  · exact absurd (archInv_live hs.arch hne).2 (Nat.not_lt.2 hmax)
  · rw [hr]; exact inv_errorTo_resp hs (by decide) hrem
  · have hlive := (archInv_live hs.arch hne).1
    obtain ⟨hpos, hle⟩ := hs.arch.entry_legal _ hlive
    rw [hr]
    exact inv_of_phase ⟨hs.arch, hpend, hop, hlive, hpos, Nat.le_refl _, hroom⟩
      hs.unit (fun h => by cases h) ⟨by simp only [goto_ctrl]; omega, hs.fit.wrIdx_le, hs.fit.doutIdx_le⟩

theorem idleStep_safe {p : Params} {s : State} (hs : Sound p s) (h : Header) :
    SafeResult p (idleStep p h s) := by
  have ha := hs.acceptHeader h
  cases hw : hdrWellFormed h with
  | false => rw [idleStep_malformed hw]; exact inv_errorTo_drain ha (by decide)
  | true =>
    cases hop : hdrOp h with
    | start =>
      rw [idleStep_start hw hop]
      exact inv_of_phase ⟨ha.arch, hop, rfl, paylen_eq h hop⟩ ha.unit (fun h => by cases h)
        ⟨ha.fit.rem_le, ha.fit.wrIdx_le, ha.fit.doutIdx_le⟩
    | absorb =>
      rw [idleStep_absorb hw hop]
      exact acceptAbsorb_safe ha hop rfl (paylen_eq h hop)
    | squeeze =>
      rw [idleStep_squeeze hw hop]
      exact acceptSqueeze_safe ha hop rfl (paylen_eq h hop)
    | finish =>
      rw [idleStep_finish hw hop]
      exact inv_of_phase ⟨ha.arch, hop, rfl, paylen_eq h hop⟩ ha.unit (fun h => by cases h)
        ⟨ha.fit.rem_le, ha.fit.wrIdx_le, ha.fit.doutIdx_le⟩

/-! ## START -/

/-- The cleared engine has loaded nothing (R143). -/
theorem loading_startClear {p : Params} {s : State} (hop : s.ctrl.curOp = .start)
    (hpend : s.ctrl.pend = .ok) (hrem : s.ctrl.rem = s.ctrl.curLen.toNat + 1)
    (hfits : s.ctrl.curLen.toNat ≤ p.patternMax) (ph : Phase) :
    Loading p (goto ph (startClear s)).arch (goto ph (startClear s)).ctrl where
  cleared := rfl
  pend := hpend
  curOp := hop
  fits := hfits
  rem := hrem
  entry_legal := fun i hi => absurd hi (Nat.not_lt_zero i)
  entry_zero := fun _ _ => rfl
  pat_wf := rfl

theorem startClrStep_safe {p : Params} (hp : p.Valid) {s : State} (hinv : Inv p s)
    (hph : s.ctrl.phase = .startClr) : Inv p (startClrStep p s) := by
  have h := hinv.phase
  rw [PhaseInv, hph] at h
  obtain ⟨-, hop, hpend, hrem⟩ := h
  have hunit := inv_unit_none hinv (by rw [hph]; decide)
  have hfit : CountersFit p (startClear s).ctrl := ⟨hinv.rem_le, Nat.zero_le _, hinv.doutIdx_le⟩
  rcases startClrStep_cases p s with ⟨-, hr⟩ | ⟨hfits, hzero, hr⟩ | ⟨hfits, hpos, hr⟩ <;> rw [hr]
  · have hs : Sound p (startClear s) := ⟨archInv_reset hp, hunit, hfit⟩
    exact inv_errorTo_drain (c := .capacity) hs (by decide)
  · exact inv_of_phase ⟨loading_startClear hop hpend hrem hfits .startTag, hzero.symm⟩ hunit
      (fun h => by cases h) ⟨hfit.rem_le, hfit.wrIdx_le, hfit.doutIdx_le⟩
  · exact inv_of_phase ⟨loading_startClear hop hpend hrem hfits .startPat, hpos⟩ hunit
      (fun h => by cases h) ⟨hfit.rem_le, hfit.wrIdx_le, hfit.doutIdx_le⟩

/-- A pattern word is legal and goes to the next entry, or ends the load (R67, R144). -/
theorem startPatStep_cases {p : Params} {s : State} (hidx : s.ctrl.wrIdx < p.patternMax) (w : Nat) :
    (legalEntry w = false ∧
      startPatStep p w s = .next (clearPat (errorTo .badPattern .drain (countWord s)))) ∨
    (legalEntry w = true ∧
      startPatStep p w s =
        .next (nextEntry { s.arch with pat := Store.write s.arch.pat s.ctrl.wrIdx w }
          (countWord s))) := by
  unfold startPatStep takeEntry patWrite
  rw [countWord_ctrl, if_pos hidx]
  cases hw : legalEntry w
  · exact .inl ⟨rfl, rfl⟩
  · exact .inr ⟨rfl, rfl⟩

/-- A legal entry written is loaded (R144). -/
theorem loading_nextEntry {p : Params} {s : State} (hl : Loading p s.arch s.ctrl)
    (hidx : s.ctrl.wrIdx < s.ctrl.curLen.toNat) {w : Nat} (hw : legalEntry w = true) :
    Loading p { s.arch with pat := Store.write s.arch.pat s.ctrl.wrIdx w }
      (nextEntry { s.arch with pat := Store.write s.arch.pat s.ctrl.wrIdx w }
        (countWord s)).ctrl where
  cleared := by rw [hl.cleared]
  pend := hl.pend
  curOp := hl.curOp
  fits := hl.fits
  rem := by
    have := hl.rem
    simp only [nextEntry_ctrl, countWord_ctrl]
    omega
  entry_legal := fun i hi => by
    replace hi : i < s.ctrl.wrIdx + 1 := hi
    rw [read_write hl.pat_wf]
    split
    · exact (legalEntry_iff w).1 hw
    · exact hl.entry_legal i (by omega)
  entry_zero := fun i hi => by
    replace hi : s.ctrl.wrIdx + 1 ≤ i := hi
    rw [read_write hl.pat_wf, if_neg (by omega)]
    exact hl.entry_zero i (by omega)
  pat_wf := wf_write hl.pat_wf _ _

theorem startPatStep_safe {p : Params} (hp : p.Valid) {s : State} (hinv : Inv p s)
    (hph : s.ctrl.phase = .startPat) (w : Nat) : SafeResult p (startPatStep p w s) := by
  have h := hinv.phase
  rw [PhaseInv, hph] at h
  obtain ⟨hl, hidx⟩ := h
  have hunit := inv_unit_none hinv (by rw [hph]; decide)
  have hrem := hinv.rem_le
  rcases startPatStep_cases (p := p) (hidx.trans_le hl.fits) w with ⟨-, hr⟩ | ⟨hw, hr⟩ <;> rw [hr]
  · have harch : (clearPat (errorTo .badPattern .drain (countWord s))).arch =
        { Arch.reset with fault := .badPattern } := by
      rw [clearPat_arch, errorTo_arch, countWord_arch, hl.cleared]
      rfl
    have hbad : Status.badPattern ≠ .ok := by decide
    refine inv_of_phase (And.intro ?_ ⟨hbad, ?_⟩) hunit (fun h => by cases h)
      ⟨by simp only [clearPat_ctrl, errorTo_ctrl, countWord_ctrl]; omega, hinv.wrIdx_le,
        hinv.doutIdx_le⟩
    · rw [harch]; exact archInv_cleared hp .badPattern
    · rw [harch]; exact hbad
  · have hnext := loading_nextEntry hl hidx hw
    have hidx' := hl.fits
    refine inv_of_phase ?_ hunit ?_
      ⟨by simp only [nextEntry_ctrl, countWord_ctrl]; omega,
        by simp only [nextEntry_ctrl, countWord_ctrl]; omega, hinv.doutIdx_le⟩
    · rw [PhaseInv]
      by_cases hlast : s.ctrl.wrIdx + 1 = s.ctrl.curLen.toNat
      · simp only [nextEntry_ctrl, countWord_ctrl, hlast, if_true] at hnext ⊢
        exact ⟨hnext, trivial⟩
      · simp only [nextEntry_ctrl, countWord_ctrl, hlast, if_false] at hnext ⊢
        exact ⟨hnext, by omega⟩
    · simp only [nextEntry_ctrl]
      split <;> decide

/-- START_TAG's word is the tag (R67, R68, R145). -/
theorem nextWordKind_tag {c : Ctrl} (hpend : c.pend = .ok) (hop : c.curOp = .start) (hrem : c.rem = 1) :
    nextWordKind c = .tag := by
  simp [nextWordKind, hpend, hop, hrem]

theorem startTagStep_safe {p : Params} (hp : p.Valid) {s : State} (hinv : Inv p s)
    (hph : s.ctrl.phase = .startTag) {w : Nat} (hw : wordInContract p s.ctrl w = true) :
    Inv p (startTagStep w s) := by
  have h := hinv.phase
  rw [PhaseInv, hph] at h
  have hunit := inv_unit_none hinv (by rw [hph]; decide)
  obtain ⟨hl, hidx⟩ := h
  have hrem : s.ctrl.rem = 1 := by have := hl.rem; omega
  have htag : w < p.modulus := by
    rw [wordInContract, nextWordKind_tag hl.pend hl.curOp hrem] at hw
    exact (canonicalWord_iff hp w).1 hw
  have hempty : s.ctrl.curLen.toNat = 0 → s.arch.pat = [] := fun h0 =>
    eq_nil_of_read_zero hl.pat_wf fun i => hl.entry_zero i (by omega)
  have harch : (startTagStep w s).arch =
      { Arch.reset with
        pat := s.arch.pat, patternLen := s.ctrl.curLen.toNat, lanes := tagLanes zeroLanes w
        fault := .ok } := by
    rw [startTagStep, goto_arch, takeTag_arch, countWord_arch, hl.cleared]
    rfl
  have hrem' : (startTagStep w s).ctrl.rem = 0 := by
    simp only [startTagStep, goto_ctrl, takeTag_ctrl, countWord_ctrl]; omega
  refine inv_of_phase (And.intro ?_ ⟨hrem', fun hbad => absurd hl.pend hbad, fun hop => ?_⟩)
    hunit (fun h => by cases h)
    ⟨by rw [hrem']; exact Nat.zero_le _, hinv.wrIdx_le, hinv.doutIdx_le⟩
  · rw [harch]
    exact archInv_loaded hp hl.pat_wf hl.fits (fun i hi => hl.entry_legal i (by omega))
      (fun i hi => hl.entry_zero i (by omega)) hempty htag
  · exact absurd (hl.curOp.symm.trans hop) (by decide)

/-! ## The element loops -/

theorem absElemStep_safe {p : Params} (hp : p.Valid) {s : State} (hinv : Inv p s)
    (hph : s.ctrl.phase = .absElem) (i : Fin WIDTH) (w : Nat) : Inv p (absElemStep p i w s) := by
  have h := hinv.phase
  rw [PhaseInv, hph] at h
  obtain ⟨ha, hab⟩ := h
  have hunit := inv_unit_none hinv (by rw [hph]; decide)
  have hlanes := canonical_addLane hp ha.lanes_canonical i w
  have hrem := hinv.rem_le
  have hpos := hab.rem_pos
  have hle := hab.rem_le
  have hadded := archInv_lanes ha hab.live hlanes s.arch.absorbPos.next s.arch.squeezePos
  unfold absElemStep absorbNext
  by_cases hlast : (countWord (addElem p i w s)).ctrl.rem = 0
  · rw [if_pos hlast]
    refine inv_of_phase
      ⟨archInv_advance hadded hab.live sentinel, hlast, fun hbad => absurd hab.pend hbad, fun hop => ?_⟩
      hunit (fun h => by cases h) ⟨?_, hinv.wrIdx_le, hinv.doutIdx_le⟩
    · exact absurd (hab.curOp.symm.trans hop) (by decide)
    · exact (Nat.le_of_eq hlast).trans (Nat.zero_le _)
  · rw [if_neg hlast]
    have hrem' : (countWord (addElem p i w s)).ctrl.rem = s.ctrl.rem - 1 := rfl
    refine inv_of_phase ?_ hunit ?_ ⟨by omega, hinv.wrIdx_le, hinv.doutIdx_le⟩
    · rw [PhaseInv, countWord_ctrl, addElem_ctrl, hph]
      exact ⟨hadded, hab.pend, hab.curOp, hab.live, hab.entry, by dsimp only; omega, by dsimp only; omega⟩
    · rw [countWord_ctrl, addElem_ctrl, hph]; decide

theorem sqzElemStep_safe {p : Params} {s : State} (hinv : Inv p s)
    (hph : s.ctrl.phase = .sqzElem) (i : Fin WIDTH) : SafeResult p (sqzElemStep p i s) := by
  have h := hinv.phase
  rw [PhaseInv, hph] at h
  obtain ⟨ha, hsq⟩ := h
  have hunit := inv_unit_none hinv (by rw [hph]; decide)
  have hrem := hinv.rem_le
  have hpos := hsq.rem_pos
  have hle := hsq.rem_le
  have hroom := hsq.room
  have hlt : s.arch.outLen < p.outMax := by omega
  have htook := archInv_append ha hsq.live hlt (ha.lanes_canonical i) s.arch.squeezePos.next
  unfold sqzElemStep
  rw [takeElem_eq, if_pos hlt]
  dsimp only
  unfold squeezeNext
  by_cases hlast : (countWord (tookElem i s)).ctrl.rem = 0
  · rw [if_pos hlast]
    have hout : 1 ≤ (tookElem i s).arch.outLen := Nat.succ_pos _
    refine inv_of_phase
      ⟨archInv_advance htook hsq.live s.arch.squeezePos.next, hlast, fun hbad => absurd hsq.pend hbad,
        fun _ _ => hout⟩
      hunit (fun h => by cases h) ⟨?_, hinv.wrIdx_le, hinv.doutIdx_le⟩
    exact (Nat.le_of_eq hlast).trans (Nat.zero_le _)
  · rw [if_neg hlast]
    have hrem' : (countWord (tookElem i s)).ctrl.rem = s.ctrl.rem - 1 := rfl
    refine inv_of_phase ?_ hunit ?_ ⟨by omega, hinv.wrIdx_le, hinv.doutIdx_le⟩
    · have hctrl : (tookElem i s).ctrl = s.ctrl := rfl
      have hlen : (tookElem i s).arch.outLen = s.arch.outLen + 1 := rfl
      rw [PhaseInv, countWord_ctrl, hctrl, hph]
      exact ⟨htook, hsq.pend, hsq.curOp, hsq.live, by dsimp only; omega,
        (Nat.sub_le _ _).trans hle, by dsimp only [countWord_arch]; omega⟩
    · show s.ctrl.phase ≠ .permWait
      rw [hph]; decide

/-- A grant moves to PERM_REQ with the loop as it stands (R128, R148). -/
theorem inv_goto_permReq {p : Params} {s : State} (hs : Sound p s)
    (hask : Absorbing s.arch s.ctrl ∧ s.arch.absorbPos = sentinel ∨
      Squeezing p s.arch s.ctrl ∧ s.arch.squeezePos = sentinel) : Inv p (goto .permReq s) := by
  refine inv_of_phase (And.intro hs.arch ?_) hs.unit (fun h => by cases h)
    ⟨hs.fit.rem_le, hs.fit.wrIdx_le, hs.fit.doutIdx_le⟩
  rcases hask with ⟨⟨_, _, _, _, _, _⟩, hpos⟩ | ⟨⟨_, _, _, _, _, _⟩, hpos⟩
  · exact .inl ⟨⟨‹_›, ‹_›, ‹_›, ‹_›, ‹_›, ‹_›⟩, hpos⟩
  · exact .inr ⟨⟨‹_›, ‹_›, ‹_›, ‹_›, ‹_›, ‹_›⟩, hpos⟩

/-! ## The permutation -/

theorem permReqStep_safe {p : Params} {s : State} (hinv : Inv p s)
    (hph : s.ctrl.phase = .permReq) : Inv p (permReqStep s) := by
  have h := hinv.phase
  rw [PhaseInv, hph] at h
  obtain ⟨ha, hask⟩ := h
  refine ⟨And.intro ha ?_, rfl, hinv.rem_le, hinv.wrIdx_le, hinv.doutIdx_le⟩
  rcases hask with ⟨⟨_, _, _, _, _, _⟩, hpos⟩ | ⟨⟨_, _, _, _, _, _⟩, hpos⟩
  · exact .inl ⟨⟨‹_›, ‹_›, ‹_›, ‹_›, ‹_›, ‹_›⟩, hpos⟩
  · exact .inr ⟨⟨‹_›, ‹_›, ‹_›, ‹_›, ‹_›, ‹_›⟩, hpos⟩

theorem permWaitStep_safe {p : Params} (hp : p.Valid) {s : State} (hinv : Inv p s)
    (hph : s.ctrl.phase = .permWait) (l : Lanes) : SafeResult p (permWaitStep p l s) := by
  have h := hinv.phase
  rw [PhaseInv, hph] at h
  obtain ⟨ha, hask⟩ := h
  cases hc : canonicalLanes p l with
  | false => simp only [permWaitStep, hc, Bool.not_false, if_true]; trivial
  | true =>
    have hl := (canonicalLanes_iff hp l).1 hc
    rw [permWaitStep_of_canonical hc]
    rcases hask with ⟨hab, -⟩ | ⟨hsq, -⟩
    · rw [writeBack_of_absorb (s := setUnit none s) l hab.curOp]
      exact inv_of_phase ⟨archInv_lanes ha hab.live hl 0 s.arch.squeezePos, hab.pend, hab.curOp,
        hab.live, hab.entry, hab.rem_pos, hab.rem_le⟩ rfl (fun h => by cases h)
        ⟨hinv.rem_le, hinv.wrIdx_le, hinv.doutIdx_le⟩
    · rw [writeBack_of_squeeze (s := setUnit none s) l hsq.curOp]
      exact inv_of_phase ⟨archInv_lanes ha hsq.live hl 0 0, hsq.pend, hsq.curOp,
        hsq.live, hsq.rem_pos, hsq.rem_le, hsq.room⟩ rfl (fun h => by cases h)
        ⟨hinv.rem_le, hinv.wrIdx_le, hinv.doutIdx_le⟩

/-! ## The end of a command -/

theorem finClrStep_safe {p : Params} (hp : p.Valid) {s : State} (hinv : Inv p s)
    (hph : s.ctrl.phase = .finClr) : Inv p (finClrStep s) := by
  have h := hinv.phase
  rw [PhaseInv, hph] at h
  have hunit := inv_unit_none hinv (by rw [hph]; decide)
  obtain ⟨-, hop, hpend, hrem⟩ := h
  refine inv_of_phase ⟨archInv_clearAll hp s.arch, hrem, fun hbad => absurd hpend hbad, fun hsq => ?_⟩
    hunit (fun h => by cases h)
    ⟨hinv.rem_le, hinv.wrIdx_le, hinv.doutIdx_le⟩
  exact absurd (hop.symm.trans hsq) (by decide)

/-- DRAIN: the last word gone (R152). -/
theorem drain_end_safe {p : Params} {s : State} (hinv : Inv p s) (hph : s.ctrl.phase = .drain)
    (hrem : s.ctrl.rem = 0) : Inv p (goto .resp s) := by
  have h := hinv.phase
  rw [PhaseInv, hph] at h
  have hunit := inv_unit_none hinv (by rw [hph]; decide)
  obtain ⟨ha, hpend, hfault⟩ := h
  exact inv_of_phase ⟨ha, hrem, fun _ => hfault, fun _ hok => absurd hok hpend⟩
    hunit (fun h => by cases h)
    ⟨hinv.rem_le, hinv.wrIdx_le, hinv.doutIdx_le⟩

/-- DRAIN: a word discarded (R152). -/
theorem drain_word_safe {p : Params} {s : State} (hinv : Inv p s) (hph : s.ctrl.phase = .drain) :
    Inv p (countWord s) := by
  have hphase : PhaseInv p (countWord s).arch (countWord s).ctrl := by
    have h := hinv.phase
    rw [PhaseInv, hph] at h
    rw [PhaseInv, countWord_ctrl, hph]
    exact h
  have hwait : s.ctrl.phase ≠ .permWait := by rw [hph]; decide
  have hunit := inv_unit_none hinv hwait
  exact inv_of_phase hphase hunit hwait
    ⟨(Nat.sub_le _ _).trans hinv.rem_le, hinv.wrIdx_le, hinv.doutIdx_le⟩

theorem respStep_safe {p : Params} {s : State} (hinv : Inv p s) (hph : s.ctrl.phase = .resp) :
    Inv p (respStep s) := by
  have h := hinv.phase
  rw [PhaseInv, hph] at h
  obtain ⟨ha, hrem, -, hout⟩ := h
  have hunit := inv_unit_none hinv (by rw [hph]; decide)
  unfold respStep afterResponse
  split
  · next hstream =>
    obtain ⟨hop, hpend⟩ := hstream
    exact inv_of_phase ⟨ha, hrem, hop, hpend, hout hop hpend⟩ hunit (fun h => by cases h)
      ⟨hinv.rem_le, hinv.wrIdx_le, Nat.zero_le _⟩
  · exact inv_of_phase (s := goto .idle _) ha hunit (fun h => by cases h)
      ⟨hinv.rem_le, hinv.wrIdx_le, hinv.doutIdx_le⟩

/-- The elements of OUT that DOUT reads exist (R42, R154). -/
theorem doutStep_eq {p : Params} {s : State} (hidx : s.ctrl.doutIdx < p.outMax) :
    doutStep p s = .next (afterElem
      (sendElem (Store.read s.arch.out s.ctrl.doutIdx) (s.ctrl.doutIdx == s.arch.outLen - 1) s)) := by
  unfold doutStep outRead
  rw [if_pos hidx]

theorem doutStep_safe {p : Params} {s : State} (hinv : Inv p s) (hph : s.ctrl.phase = .dout) :
    SafeResult p (doutStep p s) := by
  have hidx := doutIdx_lt_outMax hinv hph
  have h := hinv.phase
  rw [PhaseInv, hph] at h
  obtain ⟨ha, hrem, hop, hpend, hout⟩ := h
  have hunit := inv_unit_none hinv (by rw [hph]; decide)
  rw [doutStep_eq hidx]
  unfold afterElem
  split
  · exact inv_of_phase (s := goto .idle _) ha hunit (fun h => by cases h)
      ⟨hinv.rem_le, hinv.wrIdx_le, hinv.doutIdx_le⟩
  · next hmore =>
    replace hmore : ¬s.ctrl.doutIdx = s.arch.outLen - 1 := hmore
    refine inv_of_phase ?_ hunit ?_ ⟨hinv.rem_le, hinv.wrIdx_le, hidx⟩
    · rw [PhaseInv, sendElem_ctrl, hph]
      exact ⟨ha, hrem, hop, hpend, by simp only [sendElem_arch]; omega⟩
    · show s.ctrl.phase ≠ .permWait
      rw [hph]; decide

/-! ## Every edge -/

/-- An offer that is absent leaves the state (R61). -/
theorem safe_elim {p : Params} {s : State} (hinv : Inv p s) {α : Type} {f : α → Result}
    (hf : ∀ a, SafeResult p (f a)) (o : Option α) : SafeResult p (o.elim (.next s) f) := by
  cases o with
  | none => exact hinv
  | some a => exact hf a

/-- The DIN transfer keeps the invariant in each phase that takes a word. -/
theorem dinStep_safe {p : Params} (hp : p.Valid) {s : State} (hinv : Inv p s)
    (hph : s.ctrl.phase = .startPat ∨ s.ctrl.phase = .startTag ∨ s.ctrl.phase = .drain ∨
      s.ctrl.phase = .absElem ∧ ∃ i, rateLane s.arch.absorbPos = some i) (w : Nat) :
    SafeResult p (dinStep p w s) := by
  cases hw : wordInContract p s.ctrl w with
  | false => rw [dinStep_refused hw]; trivial
  | true =>
    rcases hph with hph | hph | hph | ⟨hph, i, hi⟩
    · rw [dinStep_startPat hw hph]; exact startPatStep_safe hp hinv hph w
    · rw [dinStep_startTag hw hph]; exact startTagStep_safe hp hinv hph hw
    · rw [dinStep_drain hw hph]; exact drain_word_safe hinv hph
    · rw [dinStep_absElem hw hph hi]; exact absElemStep_safe hp hinv hph i w

/-- Every edge keeps the invariant and leaves no store, whatever the pins (R26, R42, R140). -/
theorem clockEdge_safe {p : Params} (hp : p.Valid) {s : State} (hinv : Inv p s) (pins : Pins p) :
    SafeResult p (clockEdge p pins s) := by
  cases hrst : pins.rst with
  | true => rw [clockEdge_reset hrst]; exact inv_reset hp s
  | false =>
    have h := hinv.phase
    cases hph : s.ctrl.phase <;> rw [PhaseInv, hph] at h
    case idle =>
      rw [clockEdge_idle hrst hph]
      have hs := inv_sound hinv (by rw [hph]; decide) (by rw [hph]; decide) (by rw [hph]; decide)
      exact safe_elim hinv (fun hd => idleStep_safe hs hd) _
    case startClr => rw [clockEdge_startClr hrst hph]; exact startClrStep_safe hp hinv hph
    case startPat =>
      rw [clockEdge_startPat hrst hph]
      exact safe_elim hinv (fun w => dinStep_safe hp hinv (.inl hph) _) _
    case startTag =>
      rw [clockEdge_startTag hrst hph]
      exact safe_elim hinv (fun w => dinStep_safe hp hinv (.inr (.inl hph)) _) _
    case absElem =>
      rcases rateLane_cases s.arch.absorbPos with ⟨i, hi, -⟩ | ⟨-, hpos⟩
      · rw [clockEdge_absElem_lane hrst hph hi]
        exact safe_elim hinv
          (fun w => dinStep_safe hp hinv (.inr (.inr (.inr ⟨hph, i, hi⟩))) _) _
      · rw [clockEdge_absElem_rate hrst hph hpos]
        have hs := inv_sound hinv (by rw [hph]; decide) (by rw [hph]; decide) (by rw [hph]; decide)
        exact inv_goto_permReq hs (.inl ⟨h.2, hpos⟩)
    case sqzElem =>
      rcases rateLane_cases s.arch.squeezePos with ⟨i, hi, -⟩ | ⟨-, hpos⟩
      · rw [clockEdge_sqzElem_lane hrst hph hi]
        exact sqzElemStep_safe hinv hph i
      · rw [clockEdge_sqzElem_rate hrst hph hpos]
        have hs := inv_sound hinv (by rw [hph]; decide) (by rw [hph]; decide) (by rw [hph]; decide)
        exact inv_goto_permReq hs (.inr ⟨h.2, hpos⟩)
    case permReq =>
      rw [clockEdge_permReq hrst hph]
      cases pins.preqReady
      · exact hinv
      · exact permReqStep_safe hinv hph
    case permWait =>
      rw [clockEdge_permWait_elim hrst hph]
      exact safe_elim hinv (fun v => permWaitStep_safe hp hinv hph _) _
    case finClr => rw [clockEdge_finClr hrst hph]; exact finClrStep_safe hp hinv hph
    case drain =>
      by_cases hrem : s.ctrl.rem = 0
      · rw [clockEdge_drain_end hrst hph hrem]; exact drain_end_safe hinv hph hrem
      · rw [clockEdge_drain_word hrst hph hrem]
        exact safe_elim hinv (fun w => dinStep_safe hp hinv (.inr (.inr (.inl hph))) _) _
    case resp =>
      rw [clockEdge_resp hrst hph]
      cases pins.rspReady
      · exact hinv
      · exact respStep_safe hinv hph
    case dout =>
      rw [clockEdge_dout hrst hph]
      cases pins.doutReady
      · exact hinv
      · exact doutStep_safe hinv hph

/-- Settles O52: the next state of an edge meets the invariant. -/
theorem everyClockEdgeKeepsTheInvariant : Obligations.EveryClockEdgeKeepsTheInvariant := by
  unfold Obligations.EveryClockEdgeKeepsTheInvariant
  intro pins s t hinv hedge
  have safe := clockEdge_safe hw_valid hinv pins
  rwa [hedge] at safe

/-! ## The ranges of the registers -/

/-- What is at most `n` fits `bitlength(n)` bits (R5, R7). -/
theorem lt_two_pow_bitlength_of_le {m n : Nat} (h : m ≤ n) : m < 2 ^ bitlength n :=
  h.trans_lt (lt_two_pow_bitlength n)

/-- The bounds of the architectural counters and entries and lanes, in every phase (R26). -/
theorem inv_ranges {p : Params} (hp : p.Valid) {s : State} (hinv : Inv p s) :
    s.arch.ioCount ≤ p.patternMax ∧ s.arch.patternLen ≤ p.patternMax ∧ s.arch.outLen ≤ p.outMax ∧
      (∀ i, Store.read s.arch.pat i ≤ 65535) ∧ p.CanonicalLanes s.arch.lanes := by
  by_cases hload : s.ctrl.phase = .startPat ∨ s.ctrl.phase = .startTag
  · have hl : Loading p s.arch s.ctrl := by
      have h := hinv.phase
      rcases hload with hph | hph <;> rw [PhaseInv, hph] at h <;> exact h.1
    have hentry : ∀ i, Store.read s.arch.pat i ≤ 65535 := fun i => by
      by_cases hi : i < s.ctrl.wrIdx
      · exact (hl.entry_legal i hi).2
      · rw [hl.entry_zero i (by omega)]; omega
    refine ⟨?_, ?_, ?_, hentry, ?_⟩ <;> rw [hl.cleared]
    · exact Nat.zero_le _
    · exact Nat.zero_le _
    · exact Nat.zero_le _
    · exact canonical_zeroLanes hp
  · have ha := inv_archInv hinv (fun h => hload (.inl h)) (fun h => hload (.inr h))
    refine ⟨ha.ioCount_le.trans ha.patternLen_le, ha.patternLen_le, ha.outLen_le, fun i => ?_,
      ha.lanes_canonical⟩
    by_cases hi : i < s.arch.patternLen
    · exact (ha.entry_legal i hi).2
    · rw [ha.entry_zero i (by omega)]; omega

/-- Settles O54: each bound of the invariant, and a number is below two to its bit length. -/
theorem countersFitTheirRegisters : Obligations.CountersFitTheirRegisters := by
  unfold Obligations.CountersFitTheirRegisters
  intro s hinv
  obtain ⟨hio, hlen, hout, hentry, hlanes⟩ := inv_ranges hw_valid hinv
  have hrem := hinv.rem_le
  exact ⟨lt_two_pow_bitlength_of_le hio, lt_two_pow_bitlength_of_le hlen,
    lt_two_pow_bitlength_of_le hinv.wrIdx_le, lt_two_pow_bitlength_of_le hout,
    lt_two_pow_bitlength_of_le hinv.doutIdx_le, by omega,
    lt_two_pow_bitlength_of_le (Nat.le_of_lt_succ s.arch.absorbPos.isLt),
    lt_two_pow_bitlength_of_le (Nat.le_of_lt_succ s.arch.squeezePos.isLt),
    fun i => Nat.lt_succ_of_le (hentry i), canonicalLane_lt_two_pow_fieldBits hlanes⟩

/-- Settles O39: the outputs are the registers, which their ports hold whole under the invariant. -/
theorem statusPortShowsTheState : Obligations.StatusPortShowsTheState := by
  unfold Obligations.StatusPortShowsTheState
  intro rst s
  have fault : (outputs Config.hw rst s).stFault = s.arch.fault.code := rfl
  refine ⟨?_, rfl, rfl, rfl, bne_iff_ne, fun hinv => ?_⟩
  · rw [fault]
    cases s.arch.fault <;> rfl
  · obtain ⟨hio, hlen, hout, -, -⟩ := inv_ranges hw_valid hinv
    have whole {m n : Nat} (h : m ≤ n) : (BitVec.ofNat (bitlength n) m).toNat = m := by
      rw [BitVec.toNat_ofNat, Nat.mod_eq_of_lt (lt_two_pow_bitlength_of_le h)]
    exact ⟨whole hio, whole hlen, whole hout⟩

end Sys2Proof.Proofs
end

section
/-! The controller refines the command (R160): against an environment that completes every handshake,
each loop of micro-steps reaches what the loop of the command computes, and every path ends as
`finishCommand` does. A step that takes a command whole is then some number of edges, and keeps what
every edge keeps. -/

namespace Sys2Proof.Proofs

open Sys2Proof Sys2Proof.Machine Sys2Proof.Laws

/-! ## Runs of edges -/

/-- Some number of edges answers `r` (R160). -/
def Reaches (p : Params) (s : State) (r : Result) : Prop := ∃ k, cycles p k s = r

theorem reaches_here (p : Params) (s : State) : Reaches p s (.next s) := ⟨0, rfl⟩

theorem cycles_succ_of_next {p : Params} {s t : State} (h : cycle p s = .next t) (k : Nat) :
    cycles p (k + 1) s = cycles p k t := by
  rw [cycles, h]

theorem Reaches.after {p : Params} {s t : State} {r : Result} (hr : Reaches p t r)
    (h : cycle p s = .next t) : Reaches p s r := by
  obtain ⟨k, hk⟩ := hr
  exact ⟨k + 1, (cycles_succ_of_next h k).trans hk⟩

theorem reaches_refused {p : Params} {s : State} {x : Refusal} (h : cycle p s = .refused x) :
    Reaches p s (.refused x) := ⟨1, by rw [cycles, h]⟩

/-- The answer where payload words are under the contract of R67: a state, or the refusal. -/
def underContract (met : Bool) (t : State) : Result :=
  if met then .next t else .refused .wordNotCanonical

/-! ## One edge of the run -/

/-- The host has the words `ds` to send on DIN. -/
def withDin (ds : List Nat) (s : State) : State := { s with ports := { s.ports with dinIn := ds } }

section Edges

variable {p : Params} {s t : State}

theorem envPins_rst_of_serving (hs : serving s.ports = true) : (envPins p s).rst = false := by
  simp only [serving, Bool.and_eq_true, Bool.not_eq_true'] at hs
  exact hs.1.1.1.1

theorem envPins_rspReady_of_serving (hs : serving s.ports = true) :
    (envPins p s).rspReady = true := by
  simp only [serving, Bool.and_eq_true] at hs
  exact hs.1.1.1.2

theorem envPins_doutReady_of_serving (hs : serving s.ports = true) :
    (envPins p s).doutReady = true := by
  simp only [serving, Bool.and_eq_true] at hs
  exact hs.1.1.2

theorem envPins_preqReady_of_serving (hs : serving s.ports = true) :
    (envPins p s).preqReady = true := by
  simp only [serving, Bool.and_eq_true] at hs
  exact hs.1.2

/-- The unit answers the request it holds (R131). -/
theorem envPins_prsp_of_serving (hs : serving s.ports = true) {l : Lanes}
    (hl : s.ports.permUnit = some l) : (envPins p s).prsp = some (packLanes p (p.permute l)) := by
  simp only [serving, Bool.and_eq_true] at hs
  have hgo : s.ports.prspGo = true := hs.2
  simp only [envPins, hgo, hl]
  rfl

/-- A word on DIN that the bus carries arrives as it is (R60). -/
theorem envPins_din {w : Nat} {ws : List Nat} (hw : w < 2 ^ fieldBits p) :
    (envPins p (withDin (w :: ws) s)).din = some (BitVec.ofNat (fieldBits p) w) :=
  busWord_of_lt hw

/-- An edge at which neither CMD nor DIN is ready takes nothing from the host (R61). -/
theorem cycle_quiet (hcmd : cmdReady s.ctrl = false) (hdin : dinReady s.arch s.ctrl = false)
    (hedge : clockEdge p (envPins p s) s = .next t) : cycle p s = .next t := by
  have hready : (outputs p (envPins p s).rst s).cmdReady = false := by
    simp only [outputs, hcmd, Bool.and_false]
  have hready' : (outputs p (envPins p s).rst s).dinReady = false := by
    simp only [outputs, hdin, Bool.and_false]
  rw [cycle, hedge]
  simp only [takeOffered, transfers, hready, hready', Bool.and_false]
  rfl

/-- An edge that takes the oldest word on DIN (R61). -/
theorem cycle_word (hs : serving s.ports = true) (hcmd : cmdReady s.ctrl = false)
    (hdin : dinReady s.arch s.ctrl = true) {w : Nat} {ws : List Nat} (hw : w < 2 ^ fieldBits p)
    (hedge : clockEdge p (envPins p (withDin (w :: ws) s)) (withDin (w :: ws) s) =
      .next (withDin (w :: ws) t)) :
    cycle p (withDin (w :: ws) s) = .next (withDin ws t) := by
  have hrst : (envPins p (withDin (w :: ws) s)).rst = false := envPins_rst_of_serving (p := p) hs
  have hready : (outputs p false (withDin (w :: ws) s)).cmdReady = false := by
    simp only [outputs, withDin, hcmd, Bool.and_false]
  have hready' : (outputs p false (withDin (w :: ws) s)).dinReady = true := by
    simp only [outputs, withDin, hdin]
    rfl
  rw [cycle, hedge]
  simp only [takeOffered, transfers, hrst, hready, hready', envPins_din hw, Option.isSome_some,
    Bool.and_false, Bool.and_true]
  rfl

/-- An edge that takes the oldest header (R61, R142). -/
theorem cycle_header (hs : serving s.ports = true) (hph : s.ctrl.phase = .idle) {h : Header}
    (hcmd : s.ports.cmdIn.head? = some h) (hedge : idleStep p h s = .next t)
    (hports : t.ports = s.ports) : cycle p s = .next (taken s.ports.dinIn t) := by
  have hrst : (envPins p s).rst = false := envPins_rst_of_serving (p := p) hs
  have hpin : (envPins p s).cmd = some h := hcmd
  have hready : (outputs p false s).cmdReady = true := by
    simp only [outputs, cmdReady, hph]
    rfl
  have hready' : (outputs p false s).dinReady = false := by
    simp only [outputs, dinReady, hph]
    rfl
  rw [cycle, clockEdge_idle hrst hph, hpin, Option.elim_some, hedge]
  simp only [takeOffered, transfers, hrst, hready, hready', hpin, Bool.and_false]
  simp only [taken, hports]
  rfl

end Edges

/-! ## The response and the output stream -/

/-- The end of a command sees of the hidden registers only the two indices. -/
theorem finishCommand_withCtrl (op : Op) (len : BitVec LEN_BITS) (st : Status) (s : State) {c : Ctrl}
    (hwr : c.wrIdx = s.ctrl.wrIdx) (hdout : c.doutIdx = s.ctrl.doutIdx) :
    finishCommand op len st (withCtrl c s) = finishCommand op len st s := by
  unfold finishCommand withCtrl
  simp only [hwr, hdout]
  rfl

/-- Every command but a successful SQUEEZE ends with its response (R153). -/
theorem respStep_end {s : State} (hend : ¬(s.ctrl.curOp = .squeeze ∧ s.ctrl.pend = .ok)) :
    respStep s = goto .idle (sendResponse s.ctrl.curOp s.ctrl.pend s) := if_neg hend

/-- RESP sends the response, and all but a successful SQUEEZE have ended (R153). -/
theorem resp_reaches {p : Params} {s : State} (hs : serving s.ports = true)
    (hph : s.ctrl.phase = .resp) (hrem : s.ctrl.rem = 0) {op : Op} {st : Status}
    (hop : s.ctrl.curOp = op) (hst : s.ctrl.pend = st) (hend : ¬(op = .squeeze ∧ st = .ok)) :
    Reaches p s (.next (finishCommand op s.ctrl.curLen st s)) := by
  subst hop hst
  have hedge : clockEdge p (envPins p s) s =
      .next (finishCommand s.ctrl.curOp s.ctrl.curLen s.ctrl.pend s) := by
    rw [clockEdge_resp (envPins_rst_of_serving hs) hph, envPins_rspReady_of_serving hs, if_pos rfl,
      respStep_end hend]
    simp only [goto, finishCommand, sendResponse_ctrl, ← hrem]
  exact (reaches_here p _).after (cycle_quiet (by rw [cmdReady, hph]; rfl)
    (by simp only [dinReady, hph]) hedge)

/-- The state after `n` elements have been sent, the last of OUT among them (R154). -/
def streamedFrom (n : Nat) (s : State) : State :=
  { s with
    ports := { s.ports with doutOut := s.ports.doutOut ++ outWords s.arch s.ctrl.doutIdx n }
    ctrl := { s.ctrl with phase := .idle, doutIdx := s.arch.outLen - 1 } }

/-- The state after one element has been sent that is not the last of OUT (R154). -/
def sentOne (s : State) : State :=
  { sendElem (Store.read s.arch.out s.ctrl.doutIdx) false s with
    ctrl := { s.ctrl with doutIdx := s.ctrl.doutIdx + 1 } }

theorem streamedFrom_succ (n : Nat) (s : State) :
    streamedFrom (n + 2) s = streamedFrom (n + 1) (sentOne s) := by
  simp [streamedFrom, sentOne, outWords]

theorem doutStep_last {p : Params} {s : State} (hidx : s.ctrl.doutIdx < p.outMax)
    (hlast : s.ctrl.doutIdx = s.arch.outLen - 1) : doutStep p s = .next (streamedFrom 1 s) := by
  have hend : afterElem (sendElem (Store.read s.arch.out s.ctrl.doutIdx) true s) =
      goto .idle (sendElem (Store.read s.arch.out s.ctrl.doutIdx) true s) := if_pos hlast
  rw [doutStep_eq hidx, beq_iff_eq.2 hlast, hend]
  simp only [streamedFrom, ← hlast]
  rfl

theorem doutStep_more {p : Params} {s : State} (hidx : s.ctrl.doutIdx < p.outMax)
    (hmore : s.ctrl.doutIdx ≠ s.arch.outLen - 1) : doutStep p s = .next (sentOne s) := by
  rw [doutStep_eq hidx, beq_false_of_ne hmore]
  exact congrArg _ (if_neg hmore)

/-- An edge of DOUT that the host accepts. -/
theorem cycle_dout {p : Params} {s t : State} (hs : serving s.ports = true)
    (hph : s.ctrl.phase = .dout) (h : doutStep p s = .next t) : cycle p s = .next t := by
  have hedge : clockEdge p (envPins p s) s = doutStep p s := by
    rw [clockEdge_dout (envPins_rst_of_serving hs) hph, envPins_doutReady_of_serving hs, if_pos rfl]
  exact cycle_quiet (by rw [cmdReady, hph]; rfl) (by simp only [dinReady, hph]) (hedge.trans h)

/-- DOUT streams OUT from `dout_idx` on, and ends at the last index (R154). -/
theorem dout_reaches {p : Params} (n : Nat) {s : State} (hs : serving s.ports = true)
    (hph : s.ctrl.phase = .dout) (hn : s.ctrl.doutIdx + (n + 1) = s.arch.outLen)
    (hmax : s.arch.outLen ≤ p.outMax) : Reaches p s (.next (streamedFrom (n + 1) s)) := by
  induction n generalizing s with
  | zero =>
    exact (reaches_here p _).after (cycle_dout hs hph (doutStep_last (by omega) (by omega)))
  | succ n ih =>
    have hn' : s.ctrl.doutIdx + 1 + (n + 1) = s.arch.outLen := by omega
    rw [streamedFrom_succ]
    exact (ih (s := sentOne s) hs hph hn' hmax).after
      (cycle_dout hs hph (doutStep_more (by omega) (by omega)))

/-! ## DRAIN -/

/-- Every word to come meets the contract of its kind, which its position tells (R67). -/
def wordsInContract (p : Params) : Ctrl → List Nat → Bool
  | _, [] => true
  | c, w :: ws => wordInContract p c w && wordsInContract p { c with rem := c.rem - 1 } ws

/-- The payload of a malformed header has no contract (R65, R66). -/
theorem wordsInContract_badCommand (p : Params) {c : Ctrl} (hpend : c.pend = .badCommand)
    (ws : List Nat) : wordsInContract p c ws = true := by
  induction ws generalizing c with
  | nil => rfl
  | cons w ws ih =>
    have hword : wordInContract p c w = true := by simp [wordInContract, nextWordKind, hpend]
    rw [wordsInContract, hword, Bool.true_and]
    exact ih hpend

/-- Every word of ABSORB is a field element (R67, R69). -/
theorem wordInContract_absorb (p : Params) {c : Ctrl} (hpend : c.pend ≠ .badCommand)
    (hop : c.curOp = .absorb) (w : Nat) : wordInContract p c w = canonicalWord p w := by
  simp [wordInContract, nextWordKind, hpend, hop]

theorem wordsInContract_absorb (p : Params) {c : Ctrl} (hpend : c.pend ≠ .badCommand)
    (hop : c.curOp = .absorb) (ws : List Nat) :
    wordsInContract p c ws = ws.all (canonicalWord p) := by
  induction ws generalizing c with
  | nil => rfl
  | cons w ws ih =>
    rw [wordsInContract, wordInContract_absorb p hpend hop, List.all_cons]
    exact congrArg _ (ih hpend hop)

/-- Of START's words only the last is a field element (R67, R68). -/
theorem wordInContract_start (p : Params) {c : Ctrl} (hpend : c.pend ≠ .badCommand)
    (hop : c.curOp = .start) (w : Nat) :
    wordInContract p c w = if c.rem = 1 then canonicalWord p w else true := by
  by_cases hrem : c.rem = 1 <;> simp [wordInContract, nextWordKind, hpend, hop, hrem]

theorem wordsInContract_start (p : Params) {c : Ctrl} (hpend : c.pend ≠ .badCommand)
    (hop : c.curOp = .start) (vs : List Nat) (tag : Nat) (hrem : c.rem = vs.length + 1) :
    wordsInContract p c (vs ++ [tag]) = canonicalWord p tag := by
  induction vs generalizing c with
  | nil =>
    have hone : c.rem = 1 := hrem
    rw [List.nil_append, wordsInContract, wordInContract_start p hpend hop, if_pos hone]
    exact Bool.and_true _
  | cons v vs ih =>
    have hmore : ¬c.rem = 1 := by rw [hrem, List.length_cons]; omega
    rw [List.cons_append, wordsInContract, wordInContract_start p hpend hop, if_neg hmore,
      Bool.true_and]
    exact ih hpend hop (by simp only [hrem, List.length_cons]; omega)

/-- An edge that meets a word outside its contract is refused (R67). -/
theorem cycle_word_refused {p : Params} {s : State} {w : Nat} {ws : List Nat}
    (hw : w < 2 ^ fieldBits p) (hbad : wordInContract p s.ctrl w = false)
    (hedge : clockEdge p (envPins p (withDin (w :: ws) s)) (withDin (w :: ws) s) =
      (envPins p (withDin (w :: ws) s)).din.elim (.next (withDin (w :: ws) s))
        fun v => dinStep p v.toNat (withDin (w :: ws) s)) :
    cycle p (withDin (w :: ws) s) = .refused .wordNotCanonical := by
  have hbad' : wordInContract p (withDin (w :: ws) s).ctrl w = false := hbad
  rw [cycle, hedge, envPins_din hw, Option.elim_some, BitVec.toNat_ofNat, Nat.mod_eq_of_lt hw,
    dinStep_refused hbad']

/-- An edge that meets a word in its contract does the phase's micro-step with it. -/
theorem clockEdge_word {p : Params} {s : State} {w : Nat} {ws : List Nat}
    (hw : w < 2 ^ fieldBits p)
    (hedge : clockEdge p (envPins p (withDin (w :: ws) s)) (withDin (w :: ws) s) =
      (envPins p (withDin (w :: ws) s)).din.elim (.next (withDin (w :: ws) s))
        fun v => dinStep p v.toNat (withDin (w :: ws) s)) :
    clockEdge p (envPins p (withDin (w :: ws) s)) (withDin (w :: ws) s) =
      dinStep p w (withDin (w :: ws) s) := by
  rw [hedge, envPins_din hw, Option.elim_some, BitVec.toNat_ofNat, Nat.mod_eq_of_lt hw]

/-- DRAIN discards the rest of the payload, and the command ends in its error (R152, R153). -/
theorem drain_reaches {p : Params} (ws rest : List Nat) {s : State} (hs : serving s.ports = true)
    (hph : s.ctrl.phase = .drain) (hpend : s.ctrl.pend ≠ .ok) (hrem : s.ctrl.rem = ws.length)
    (hfit : ∀ w ∈ ws, w < 2 ^ fieldBits p) :
    Reaches p (withDin (ws ++ rest) s) (underContract (wordsInContract p s.ctrl ws)
      (finishCommand s.ctrl.curOp s.ctrl.curLen s.ctrl.pend (withDin rest s))) := by
  have hcmd : cmdReady s.ctrl = false := by rw [cmdReady, hph]; rfl
  induction ws generalizing s with
  | nil =>
    have hrem' : s.ctrl.rem = 0 := hrem
    have hend := resp_reaches (p := p) (s := goto .resp (withDin rest s)) hs rfl hrem rfl rfl
      fun hsq => hpend hsq.2
    have hdin : dinReady s.arch s.ctrl = false := by simp only [dinReady, hph, hrem']; rfl
    exact hend.after (cycle_quiet (s := withDin rest s) hcmd hdin
      (clockEdge_drain_end (envPins_rst_of_serving hs) hph hrem'))
  | cons w ws ih =>
    have hw : w < 2 ^ fieldBits p := hfit w (List.mem_cons_self ..)
    have hmore : s.ctrl.rem ≠ 0 := by rw [hrem]; exact Nat.succ_ne_zero _
    have hedge : clockEdge p (envPins p (withDin (w :: (ws ++ rest)) s))
        (withDin (w :: (ws ++ rest)) s) = _ :=
      clockEdge_drain_word (envPins_rst_of_serving hs) hph hmore
    rw [List.cons_append, wordsInContract]
    cases hc : wordInContract p s.ctrl w with
    | false => exact reaches_refused (cycle_word_refused hw hc hedge)
    | true =>
      rw [Bool.true_and]
      have step := (clockEdge_word hw hedge).trans (dinStep_drain hc hph)
      have tail := ih (s := countWord s) hs hph hpend
        (by simp only [countWord_ctrl, hrem, List.length_cons]; omega)
        (fun v hv => hfit v (List.mem_cons_of_mem _ hv)) hcmd
      have hdin : dinReady s.arch s.ctrl = true := by
        simp only [dinReady, hph]
        exact decide_eq_true (Nat.pos_of_ne_zero hmore)
      exact tail.after (cycle_word (t := countWord s) hs hcmd hdin hw step)

end Sys2Proof.Proofs
end

section
/-! The loops of the controller against the commands they run (R144 to R150, R160). -/

namespace Sys2Proof.Proofs

open Sys2Proof Sys2Proof.Machine Sys2Proof.Laws

/-! ## The permutation -/

/-- From PERM_REQ the unit is asked and its answer is written back (R126, R127, R131, R149, R150). -/
theorem permReq_reaches {p : Params} (hp : p.Valid) {s : State} {r : Result}
    (hs : serving s.ports = true) (hph : s.ctrl.phase = .permReq)
    (hlanes : p.CanonicalLanes s.arch.lanes)
    (hr : Reaches p (writeBack (p.permute s.arch.lanes) (setUnit none (permReqStep s))) r) :
    Reaches p s r := by
  have hcan := hp.permute_canonical s.arch.lanes hlanes
  have hask : clockEdge p (envPins p s) s = .next (permReqStep s) := by
    rw [clockEdge_permReq (envPins_rst_of_serving hs) hph, envPins_preqReady_of_serving hs, if_pos rfl]
  have hrst : (envPins p (permReqStep s)).rst = false := envPins_rst_of_serving (p := p) hs
  have hprsp := envPins_prsp_of_serving (p := p) (s := permReqStep s) hs rfl
  have hanswer : clockEdge p (envPins p (permReqStep s)) (permReqStep s) =
      .next (writeBack (p.permute s.arch.lanes) (setUnit none (permReqStep s))) := by
    rw [clockEdge_permWait hrst hprsp rfl,
      unpackLanes_packLanes p _ (canonicalLane_lt_two_pow_fieldBits hcan)]
    exact permWaitStep_of_canonical ((canonicalLanes_iff hp _).2 hcan) _
  exact (hr.after (cycle_quiet rfl rfl hanswer)).after
    (cycle_quiet (by rw [cmdReady, hph]; rfl) (by simp only [dinReady, hph]) hask)

/-! ## ABSORB -/

theorem absorbElem_withCtrl (p : Params) (x : Nat) (c : Ctrl) (s : State) :
    absorbElem p x (withCtrl c s) = withCtrl c (absorbElem p x s) := by
  unfold absorbElem
  simp only [withCtrl]
  cases rateLane s.arch.absorbPos <;> rfl

theorem absorbElems_withCtrl (p : Params) (xs : List Nat) (c : Ctrl) (s : State) :
    absorbElems p xs (withCtrl c s) = withCtrl c (absorbElems p xs s) := by
  induction xs generalizing s with
  | nil => rfl
  | cons x xs ih => rw [absorbElems, absorbElem_withCtrl, ih, absorbElems]

theorem absorbElem_withDin (p : Params) (x : Nat) (ds : List Nat) (s : State) :
    absorbElem p x (withDin ds s) = withDin ds (absorbElem p x s) := by
  unfold absorbElem
  simp only [withDin]
  cases rateLane s.arch.absorbPos <;> rfl

theorem absorbElem_lane {p : Params} {s : State} {i : Fin WIDTH} (x : Nat)
    (hi : rateLane s.arch.absorbPos = some i) : absorbElem p x s = addElem p i x s := by
  simp only [absorbElem, hi]

/-- At RATE an element step begins with the permutation (R101). -/
theorem absorbElem_rate {p : Params} {s : State} (hpos : s.arch.absorbPos = sentinel) (x : Nat) :
    absorbElem p x s = addElem p firstRateLane x (permuteForAbsorb p s) := by
  simp only [absorbElem, hpos, rateLane_sentinel]

/-- The elements absorbed, the command ends with `absorbDone` and its response (R100, R146, R153). -/
def absorbEnd (p : Params) (xs : List Nat) (s : State) : State :=
  finishCommand .absorb s.ctrl.curLen .ok (absorbDone (absorbElems p xs s))

theorem absorbEnd_cons (p : Params) (x : Nat) (xs : List Nat) (s : State) :
    absorbEnd p xs (countWord (absorbElem p x s)) = absorbEnd p (x :: xs) s := by
  have hcount : countWord (absorbElem p x s) =
      withCtrl (countWord (absorbElem p x s)).ctrl (absorbElem p x s) := rfl
  have hctrl : (absorbElems p xs (absorbElem p x s)).ctrl = (absorbElem p x s).ctrl := by
    obtain ⟨_, _, _, h⟩ := absorbElems_frame p xs (absorbElem p x s)
    rw [h]
  have hlen : (absorbElem p x s).ctrl.curLen = s.ctrl.curLen := by
    rw [(absorbElem_frame p x s).2]
  rw [absorbEnd, absorbEnd, absorbElems, hcount, absorbElems_withCtrl, ← hlen]
  exact finishCommand_withCtrl _ _ _ (absorbDone (absorbElems p xs (absorbElem p x s)))
    (by rw [absorbDone_ctrl, hctrl]; rfl) (by rw [absorbDone_ctrl, hctrl]; rfl)

theorem absorbNext_withDin (ds : List Nat) (s : State) :
    absorbNext (withDin ds s) = withDin ds (absorbNext s) := by
  unfold absorbNext
  have hrem : (withDin ds s).ctrl.rem = s.ctrl.rem := rfl
  rw [hrem]
  split <;> rfl

/-- ABSORB with `n` elements to come, against an environment that completes every handshake. -/
structure AbsorbRun (p : Params) (n : Nat) (s : State) : Prop where
  serving : serving s.ports = true
  phase : s.ctrl.phase = .absElem
  curOp : s.ctrl.curOp = .absorb
  pend : s.ctrl.pend = .ok
  unit : s.ports.permUnit = none
  lanes : p.CanonicalLanes s.arch.lanes
  rem : s.ctrl.rem = n

theorem AbsorbRun.withDin {p : Params} {n : Nat} {s : State} (h : AbsorbRun p n s) (ds : List Nat) :
    AbsorbRun p n (withDin ds s) :=
  ⟨h.serving, h.phase, h.curOp, h.pend, h.unit, h.lanes, h.rem⟩

theorem AbsorbRun.permuted {p : Params} (hp : p.Valid) {n : Nat} {s : State} (h : AbsorbRun p n s) :
    AbsorbRun p n (permuteForAbsorb p s) :=
  ⟨h.serving, h.phase, h.curOp, h.pend, h.unit, hp.permute_canonical _ h.lanes, h.rem⟩

theorem AbsorbRun.added {p : Params} (hp : p.Valid) {n : Nat} {s : State} (h : AbsorbRun p (n + 1) s)
    (i : Fin WIDTH) (x : Nat) : AbsorbRun p n (countWord (addElem p i x s)) :=
  ⟨h.serving, h.phase, h.curOp, h.pend, h.unit, canonical_addLane hp h.lanes i x, by
    rw [countWord_ctrl, addElem_ctrl, h.rem]; rfl⟩

theorem AbsorbRun.absorbed {p : Params} (hp : p.Valid) {n : Nat} {s : State}
    (h : AbsorbRun p (n + 1) s) (x : Nat) : AbsorbRun p n (countWord (absorbElem p x s)) := by
  rcases absorbElem_cases p x s with ⟨i, -, hstep⟩ | ⟨-, hstep⟩ <;> rw [hstep]
  · exact h.added hp i x
  · exact (h.permuted hp).added hp firstRateLane x

/-- At RATE the loop asks for the permutation and goes on with its answer (R128, R146). -/
theorem AbsorbRun.request {p : Params} (hp : p.Valid) {n : Nat} {s : State} (h : AbsorbRun p n s)
    (hpos : s.arch.absorbPos = sentinel) {r : Result} (hr : Reaches p (permuteForAbsorb p s) r) :
    Reaches p s r := by
  have hback : writeBack (p.permute s.arch.lanes) (setUnit none (permReqStep (goto .permReq s))) =
      permuteForAbsorb p s := by
    rw [writeBack_of_absorb _ (by exact h.curOp)]
    have hctrl : { s.ctrl with phase := .absElem } = s.ctrl := by rw [← h.phase]
    have hports : { (recordRequest s).ports with permUnit := none } = (recordRequest s).ports := by
      rw [← h.unit]; rfl
    calc _ = State.mk { s.arch with lanes := p.permute s.arch.lanes, absorbPos := 0 }
          { s.ctrl with phase := .absElem } { (recordRequest s).ports with permUnit := none } := rfl
      _ = permuteForAbsorb p s := by rw [hctrl, hports]; rfl
  have hgo : Reaches p (goto .permReq s) r :=
    permReq_reaches hp (s := goto .permReq s) h.serving rfl h.lanes
      (by rw [goto_arch, hback]; exact hr)
  have hdin : dinReady s.arch s.ctrl = false := by
    simp only [dinReady, h.phase, hpos]
    rfl
  exact hgo.after (cycle_quiet (by rw [cmdReady, h.phase]; rfl) hdin
    (clockEdge_absElem_rate (envPins_rst_of_serving h.serving) h.phase hpos))

/-- Below RATE the word on DIN is added, or refused (R67, R146). -/
theorem AbsorbRun.word {p : Params} {n : Nat} {s : State} (h : AbsorbRun p n s) {i : Fin WIDTH}
    (hi : rateLane s.arch.absorbPos = some i) {x : Nat} (hx : x < 2 ^ fieldBits p) (ds : List Nat) :
    cycle p (Proofs.withDin (x :: ds) s) =
      underContract (canonicalWord p x) (Proofs.withDin ds (absElemStep p i x s)) := by
  have hbad : s.ctrl.pend ≠ .badCommand := by rw [h.pend]; decide
  have hword := wordInContract_absorb p hbad h.curOp x
  have hedge : clockEdge p (envPins p (Proofs.withDin (x :: ds) s)) (Proofs.withDin (x :: ds) s) = _ :=
    clockEdge_absElem_lane (envPins_rst_of_serving h.serving) h.phase hi
  cases hc : canonicalWord p x with
  | false => exact cycle_word_refused hx (hword.trans hc) hedge
  | true =>
    have hdin : dinReady s.arch s.ctrl = true := by
      simp only [dinReady, h.phase]
      rcases rateLane_cases s.arch.absorbPos with ⟨_, -, -, hlt, -⟩ | ⟨hnone, -⟩
      · exact decide_eq_true hlt
      · rw [hnone] at hi; cases hi
    have hstep := (clockEdge_word hx hedge).trans
      (dinStep_absElem (s := Proofs.withDin (x :: ds) s) (hword.trans hc) h.phase hi)
    have hkept : absElemStep p i x (Proofs.withDin (x :: ds) s) =
        Proofs.withDin (x :: ds) (absElemStep p i x s) :=
      absorbNext_withDin (x :: ds) (countWord (addElem p i x s))
    rw [hkept] at hstep
    exact cycle_word h.serving (by rw [cmdReady, h.phase]; rfl) hdin hx hstep

/-- One element of the loop, with the permutation before it at RATE (R101, R146). -/
theorem AbsorbRun.element {p : Params} (hp : p.Valid) {n : Nat} {s : State} (h : AbsorbRun p n s)
    {x : Nat} (hx : x < 2 ^ fieldBits p) {ds : List Nat} {met : Bool} {t : State}
    (hr : Reaches p (Proofs.withDin ds (absorbNext (countWord (absorbElem p x s))))
      (underContract met t)) :
    Reaches p (Proofs.withDin (x :: ds) s) (underContract (canonicalWord p x && met) t) := by
  have below : ∀ {u : State} {i : Fin WIDTH}, AbsorbRun p n u → rateLane u.arch.absorbPos = some i →
      absorbElem p x s = addElem p i x u →
      Reaches p (Proofs.withDin (x :: ds) u) (underContract (canonicalWord p x && met) t) := by
    intro u i hu hi hstep
    have hword := hu.word hi hx ds
    rw [hstep] at hr
    cases hc : canonicalWord p x with
    | false => rw [hc] at hword; exact reaches_refused hword
    | true => rw [hc] at hword; exact hr.after hword
  rcases rateLane_cases s.arch.absorbPos with ⟨i, hi, -⟩ | ⟨-, hpos⟩
  · exact below h hi (absorbElem_lane x hi)
  · exact (h.withDin (x :: ds)).request hp hpos
      (below (h.permuted hp) rateLane_zero (absorbElem_rate hpos x))

/-- ABSORB's loop of micro-steps does the elements in order (R100, R146, R160). -/
theorem AbsorbRun.reaches {p : Params} (hp : p.Valid) (x : Nat) (xs rest : List Nat) {s : State}
    (h : AbsorbRun p (xs.length + 1) s) (hfit : ∀ w ∈ x :: xs, w < 2 ^ fieldBits p) :
    Reaches p (Proofs.withDin (x :: xs ++ rest) s)
      (underContract ((x :: xs).all (canonicalWord p))
        (absorbEnd p (x :: xs) (Proofs.withDin rest s))) := by
  have hx := hfit x (List.mem_cons_self ..)
  have habsorbed := h.absorbed hp x
  rw [List.all_cons, ← absorbEnd_cons, absorbElem_withDin]
  induction xs generalizing x s with
  | nil =>
    have hnext : absorbNext (countWord (absorbElem p x s)) =
        goto .resp (absorbDone (countWord (absorbElem p x s))) := if_pos habsorbed.rem
    refine h.element hp hx (met := true) ?_
    rw [hnext]
    exact resp_reaches
      (s := Proofs.withDin rest (goto .resp (absorbDone (countWord (absorbElem p x s)))))
      habsorbed.serving rfl habsorbed.rem habsorbed.curOp habsorbed.pend (by decide)
  | cons y ys ih =>
    have hnext : absorbNext (countWord (absorbElem p x s)) = countWord (absorbElem p x s) :=
      if_neg (by rw [habsorbed.rem]; exact Nat.succ_ne_zero _)
    refine h.element hp hx ?_
    rw [hnext, List.all_cons]
    have hfit' : ∀ w ∈ y :: ys, w < 2 ^ fieldBits p := fun w hw => hfit w (List.mem_cons_of_mem _ hw)
    have tail := ih y habsorbed hfit' (hfit' y (List.mem_cons_self ..)) (habsorbed.absorbed hp y)
    rw [← absorbElem_withDin, absorbEnd_cons] at tail
    exact tail

end Sys2Proof.Proofs
end

section
/-! The loops of SQUEEZE and of START's load against the commands they run (R143 to R147, R154, R160),
and the refinement of every command. -/

namespace Sys2Proof.Proofs

open Sys2Proof Sys2Proof.Machine Sys2Proof.Laws

/-! ## SQUEEZE -/

/-- An element step that answers has taken the cursor's lane, at RATE after the permutation (R111). -/
theorem squeezeElem_ok_lane {p : Params} {s t : State} (h : squeezeElem p s = .ok t) :
    (∃ i : Fin WIDTH, rateLane s.arch.squeezePos = some i ∧ t = tookElem i s) ∨
      (s.arch.squeezePos = sentinel ∧ t = tookElem firstRateLane (permuteForSqueeze p s)) := by
  rcases squeezeElem_cases p s with ⟨i, hi, hstep⟩ | ⟨hpos, hstep⟩ <;> rw [hstep, takeElem_eq] at h
  · split at h <;> cases h
    exact .inl ⟨i, hi, rfl⟩
  · split at h <;> cases h
    exact .inr ⟨hpos, rfl⟩

theorem squeezeElem_withCtrl {p : Params} {s t : State} (h : squeezeElem p s = .ok t) (c : Ctrl) :
    squeezeElem p (withCtrl c s) = .ok (withCtrl c t) := by
  have hpos : (withCtrl c s).arch.squeezePos = s.arch.squeezePos := rfl
  unfold squeezeElem at h ⊢
  rw [hpos]
  cases hl : rateLane s.arch.squeezePos <;> rw [hl] at h <;> dsimp only at h ⊢ <;>
    rw [takeElem_eq] at h ⊢
  · by_cases hroom : (permuteForSqueeze p s).arch.outLen < p.outMax
    · rw [if_pos hroom] at h; cases h; exact if_pos hroom
    · rw [if_neg hroom] at h; cases h
  · by_cases hroom : s.arch.outLen < p.outMax
    · rw [if_pos hroom] at h; cases h; exact if_pos hroom
    · rw [if_neg hroom] at h; cases h

theorem squeezeElems_withCtrl {p : Params} {n : Nat} {s u : State} (h : squeezeElems p n s = .ok u)
    (c : Ctrl) : squeezeElems p n (withCtrl c s) = .ok (withCtrl c u) := by
  induction n generalizing s with
  | zero => cases h; rfl
  | succ n ih =>
    obtain ⟨t, ht, hrest⟩ := squeezeElems_succ_ok h
    rw [squeezeElems, squeezeElem_withCtrl ht]
    exact ih hrest

theorem squeezeElems_ctrl {p : Params} {n : Nat} {s u : State} (h : squeezeElems p n s = .ok u) :
    u.ctrl = s.ctrl := by
  induction n generalizing s with
  | zero => cases h; rfl
  | succ n ih =>
    obtain ⟨t, ht, hrest⟩ := squeezeElems_succ_ok h
    obtain ⟨-, -, -, -, -, hctrl⟩ := squeezeElem_frame ht
    exact (ih hrest).trans hctrl

/-- The elements produced, the command ends with its response and its stream (R110, R147, R153, R154). -/
def squeezeEnd (len : BitVec LEN_BITS) (u : State) : State :=
  streamOut (finishCommand .squeeze len .ok (squeezeDone u))

theorem squeezeEnd_withCtrl (len : BitVec LEN_BITS) {u : State} {c : Ctrl}
    (hwr : c.wrIdx = u.ctrl.wrIdx) (hdout : c.doutIdx = u.ctrl.doutIdx) :
    squeezeEnd len (withCtrl c u) = squeezeEnd len u :=
  congrArg streamOut (finishCommand_withCtrl .squeeze len .ok (squeezeDone u) hwr hdout)

/-- RESP of a successful SQUEEZE goes on to DOUT, which streams the whole accumulator (R153, R154). -/
theorem resp_stream_reaches {p : Params} {s : State} (hs : serving s.ports = true)
    (hph : s.ctrl.phase = .resp) (hrem : s.ctrl.rem = 0) (hop : s.ctrl.curOp = .squeeze)
    (hpend : s.ctrl.pend = .ok) (hpos : 1 ≤ s.arch.outLen) (hmax : s.arch.outLen ≤ p.outMax) :
    Reaches p s (.next (streamOut (finishCommand .squeeze s.ctrl.curLen .ok s))) := by
  obtain ⟨n, hn⟩ := Nat.exists_eq_add_of_le' hpos
  have hedge : clockEdge p (envPins p s) s =
      .next (goto .dout (withCtrl { s.ctrl with doutIdx := 0 } (sendResponse .squeeze .ok s))) := by
    rw [clockEdge_resp (envPins_rst_of_serving hs) hph, envPins_rspReady_of_serving hs, if_pos rfl,
      respStep, hop, hpend]
    exact congrArg _ (if_pos ⟨hop, hpend⟩)
  have hall : 0 + (n + 1) = s.arch.outLen := by omega
  have hstream := dout_reaches (p := p) n
    (s := goto .dout (withCtrl { s.ctrl with doutIdx := 0 } (sendResponse .squeeze .ok s))) hs rfl
    hall hmax
  have hend : streamedFrom (n + 1)
      (goto .dout (withCtrl { s.ctrl with doutIdx := 0 } (sendResponse .squeeze .ok s))) =
      streamOut (finishCommand .squeeze s.ctrl.curLen .ok s) := by
    simp only [streamedFrom, streamOut, finishCommand, goto, withCtrl, sendResponse, hn, hop, hpend,
      hrem]
  rw [hend] at hstream
  exact hstream.after (cycle_quiet (by rw [cmdReady, hph]; rfl) (by simp only [dinReady, hph]) hedge)

/-- SQUEEZE with `n` elements to come, for which OUT has room, against an environment that completes
every handshake. -/
structure SqueezeRun (p : Params) (n : Nat) (s : State) : Prop where
  serving : serving s.ports = true
  phase : s.ctrl.phase = .sqzElem
  curOp : s.ctrl.curOp = .squeeze
  pend : s.ctrl.pend = .ok
  unit : s.ports.permUnit = none
  lanes : p.CanonicalLanes s.arch.lanes
  rem : s.ctrl.rem = n
  room : s.arch.outLen + n ≤ p.outMax

theorem SqueezeRun.permuted {p : Params} (hp : p.Valid) {n : Nat} {s : State}
    (h : SqueezeRun p n s) : SqueezeRun p n (permuteForSqueeze p s) :=
  ⟨h.serving, h.phase, h.curOp, h.pend, h.unit, hp.permute_canonical _ h.lanes, h.rem, h.room⟩

theorem SqueezeRun.took {p : Params} {n : Nat} {s : State} (h : SqueezeRun p (n + 1) s)
    (i : Fin WIDTH) : SqueezeRun p n (countWord (tookElem i s)) := by
  have hroom := h.room
  refine ⟨h.serving, h.phase, h.curOp, h.pend, h.unit, h.lanes, ?_, ?_⟩
  · have hctrl : (tookElem i s).ctrl = s.ctrl := rfl
    rw [countWord_ctrl, hctrl, h.rem]; rfl
  · have hlen : (countWord (tookElem i s)).arch.outLen = s.arch.outLen + 1 := rfl
    omega

theorem SqueezeRun.squeezed {p : Params} (hp : p.Valid) {n : Nat} {s t : State}
    (h : SqueezeRun p (n + 1) s) (ht : squeezeElem p s = .ok t) : SqueezeRun p n (countWord t) := by
  rcases squeezeElem_ok_lane ht with ⟨i, -, rfl⟩ | ⟨-, rfl⟩
  · exact h.took i
  · exact (h.permuted hp).took firstRateLane

/-- At RATE the loop asks for the permutation and goes on with its answer (R128, R147). -/
theorem SqueezeRun.request {p : Params} (hp : p.Valid) {n : Nat} {s : State} (h : SqueezeRun p n s)
    (hpos : s.arch.squeezePos = sentinel) {r : Result} (hr : Reaches p (permuteForSqueeze p s) r) :
    Reaches p s r := by
  have hback : writeBack (p.permute s.arch.lanes) (setUnit none (permReqStep (goto .permReq s))) =
      permuteForSqueeze p s := by
    rw [writeBack_of_squeeze _ (by exact h.curOp)]
    have hctrl : { s.ctrl with phase := .sqzElem } = s.ctrl := by rw [← h.phase]
    have hports : { (recordRequest s).ports with permUnit := none } = (recordRequest s).ports := by
      rw [← h.unit]; rfl
    calc _ = State.mk
          { s.arch with lanes := p.permute s.arch.lanes, squeezePos := 0, absorbPos := 0 }
          { s.ctrl with phase := .sqzElem } { (recordRequest s).ports with permUnit := none } := rfl
      _ = permuteForSqueeze p s := by rw [hctrl, hports]; rfl
  have hgo : Reaches p (goto .permReq s) r :=
    permReq_reaches hp (s := goto .permReq s) h.serving rfl h.lanes
      (by rw [goto_arch, hback]; exact hr)
  exact hgo.after (cycle_quiet (by rw [cmdReady, h.phase]; rfl) (by simp only [dinReady, h.phase])
    (clockEdge_sqzElem_rate (envPins_rst_of_serving h.serving) h.phase hpos))

/-- One element of the loop, with the permutation before it at RATE (R111, R147). -/
theorem SqueezeRun.element {p : Params} (hp : p.Valid) {n : Nat} {s t : State}
    (h : SqueezeRun p (n + 1) s) (ht : squeezeElem p s = .ok t) {r : Result}
    (hr : Reaches p (squeezeNext (countWord t)) r) : Reaches p s r := by
  have below : ∀ {u : State} {i : Fin WIDTH}, SqueezeRun p (n + 1) u →
      rateLane u.arch.squeezePos = some i → t = tookElem i u → Reaches p u r := by
    intro u i hu hi htook
    have hroom : u.arch.outLen < p.outMax := by have := hu.room; omega
    have hedge : clockEdge p (envPins p u) u = .next (squeezeNext (countWord t)) := by
      rw [clockEdge_sqzElem_lane (envPins_rst_of_serving hu.serving) hu.phase hi, sqzElemStep,
        takeElem_eq, if_pos hroom, htook]
    exact hr.after (cycle_quiet (by rw [cmdReady, hu.phase]; rfl)
      (by simp only [dinReady, hu.phase]) hedge)
  rcases squeezeElem_ok_lane ht with ⟨i, hi, htook⟩ | ⟨hpos, htook⟩
  · exact below h hi htook
  · exact h.request hp hpos (below (h.permuted hp) rateLane_zero htook)

/-- SQUEEZE's loop of micro-steps does the elements in order (R110, R147, R160). -/
theorem SqueezeRun.reaches {p : Params} (hp : p.Valid) {n : Nat} {s u : State}
    (h : SqueezeRun p (n + 1) s) (hu : squeezeElems p (n + 1) s = .ok u) :
    Reaches p s (.next (squeezeEnd s.ctrl.curLen u)) := by
  induction n generalizing s u with
  | zero =>
    obtain ⟨t, ht, hrest⟩ := squeezeElems_succ_ok hu
    obtain rfl : t = u := Except.ok.inj hrest
    have hlast := h.squeezed hp ht
    obtain ⟨hlen, -, -, -, -, hctrl⟩ := squeezeElem_frame ht
    have hroom := h.room
    have hnext : squeezeNext (countWord t) = goto .resp (squeezeDone (countWord t)) :=
      if_pos hlast.rem
    refine h.element hp ht ?_
    rw [hnext, ← hctrl]
    have hpos : 1 ≤ t.arch.outLen := by omega
    have hmax : t.arch.outLen ≤ p.outMax := by omega
    exact resp_stream_reaches (s := goto .resp (squeezeDone (countWord t))) hlast.serving rfl
      hlast.rem hlast.curOp hlast.pend hpos hmax
  | succ n ih =>
    obtain ⟨t, ht, hrest⟩ := squeezeElems_succ_ok hu
    have hmore := h.squeezed hp ht
    obtain ⟨-, -, -, -, -, hctrl⟩ := squeezeElem_frame ht
    have hnext : squeezeNext (countWord t) = countWord t :=
      if_neg (by rw [hmore.rem]; exact Nat.succ_ne_zero _)
    have hcount : squeezeElems p (n + 1) (countWord t) = .ok (withCtrl (countWord t).ctrl u) :=
      squeezeElems_withCtrl hrest (countWord t).ctrl
    have hu' := squeezeElems_ctrl hrest
    have hkept : squeezeEnd s.ctrl.curLen (withCtrl (countWord t).ctrl u) =
        squeezeEnd s.ctrl.curLen u :=
      squeezeEnd_withCtrl _ (by rw [hu']; rfl) (by rw [hu']; rfl)
    refine h.element hp ht ?_
    have tail := ih hmore hcount
    have hlen : (countWord t).ctrl.curLen = s.ctrl.curLen := by rw [countWord_ctrl, hctrl]
    rw [hlen, hkept] at tail
    rw [hnext]
    exact tail

/-! ## START -/

/-- START between START_CLR and START_TAG, `n` payload words to come, against an environment that
completes every handshake. -/
structure LoadRun (n : Nat) (s : State) : Prop where
  serving : serving s.ports = true
  curOp : s.ctrl.curOp = .start
  pend : s.ctrl.pend = .ok
  rem : s.ctrl.rem = n

theorem LoadRun.ne_badCommand {n : Nat} {s : State} (h : LoadRun n s) : s.ctrl.pend ≠ .badCommand := by
  rw [h.pend]; decide

/-- START_TAG takes the tag, or refuses it, and the command ends (R145, R153). -/
theorem LoadRun.tag_reaches {p : Params} {s : State} (h : LoadRun 1 s)
    (hph : s.ctrl.phase = .startTag) {tag : Nat} (htag : tag < 2 ^ fieldBits p) (rest : List Nat) :
    Reaches p (withDin (tag :: rest) s) (underContract (canonicalWord p tag)
      (finishCommand .start s.ctrl.curLen .ok (takeTag tag (withDin rest s)))) := by
  have hword := wordInContract_start p h.ne_badCommand h.curOp tag
  rw [if_pos h.rem] at hword
  have hedge : clockEdge p (envPins p (withDin (tag :: rest) s)) (withDin (tag :: rest) s) = _ :=
    clockEdge_startTag (envPins_rst_of_serving h.serving) hph
  cases hc : canonicalWord p tag with
  | false => exact reaches_refused (cycle_word_refused htag (hword.trans hc) hedge)
  | true =>
    have hstep := (clockEdge_word htag hedge).trans
      (dinStep_startTag (s := withDin (tag :: rest) s) (hword.trans hc) hph)
    have hlast : (countWord s).ctrl.rem = 0 := by rw [countWord_ctrl, h.rem]
    have hend := resp_reaches (p := p) (s := withDin rest (startTagStep tag s)) h.serving rfl hlast
      h.curOp h.pend (by decide)
    exact hend.after (cycle_word (t := startTagStep tag s) h.serving (by rw [cmdReady, hph]; rfl)
      (by simp only [dinReady, hph]) htag hstep)

/-- The pattern words loaded from `wr_idx` on and the tag taken (R144, R145). -/
def loadedFrom (vs : List Nat) (tag : Nat) (s : State) : State :=
  { s with
    arch := { s.arch with
      pat := loadPattern vs s.ctrl.wrIdx s.arch.pat
      patternLen := s.ctrl.curLen.toNat
      lanes := tagLanes s.arch.lanes tag }
    ctrl := { s.ctrl with wrIdx := s.ctrl.wrIdx + vs.length } }

/-- The load given up at the first illegal entry (R144). -/
def spoiledFrom (vs : List Nat) (s : State) : State :=
  { s with
    arch := { setFault .badPattern s.arch with pat := [] }
    ctrl := { s.ctrl with wrIdx := s.ctrl.wrIdx + firstIllegal vs } }

/-- How START ends that has the words `vs` and the tag still to take (R91, R144, R145). -/
def loadEnd (vs : List Nat) (tag : Nat) (s : State) : State :=
  if vs.all legalEntry then finishCommand .start s.ctrl.curLen .ok (loadedFrom vs tag s)
  else finishCommand .start s.ctrl.curLen .badPattern (spoiledFrom vs s)

theorem setFault_write (c : Status) (a : Arch) (m m' : Store) :
    { setFault c { a with pat := m } with pat := m' } = { setFault c a with pat := m' } := by
  rw [setFault_eq, setFault_eq]

/-- The legal entry `v` written, the load goes on with the rest (R144). -/
theorem loadEnd_cons {v : Nat} (hv : legalEntry v = true) (vs : List Nat) (tag : Nat) (s : State) :
    loadEnd vs tag (nextEntry { s.arch with pat := Store.write s.arch.pat s.ctrl.wrIdx v }
      (countWord s)) = loadEnd (v :: vs) tag s := by
  have hwr : s.ctrl.wrIdx + 1 + vs.length = s.ctrl.wrIdx + (v :: vs).length := by
    rw [List.length_cons]; omega
  have hillegal : s.ctrl.wrIdx + 1 + firstIllegal vs = s.ctrl.wrIdx + firstIllegal (v :: vs) := by
    rw [firstIllegal, firstIllegal, List.takeWhile_cons_of_pos hv, List.length_cons]; omega
  unfold loadEnd
  rw [List.all_cons, hv, Bool.true_and]
  split
  · simp only [finishCommand, sendResponse, rspCount, loadedFrom, nextEntry_arch, nextEntry_ctrl,
      nextEntry_ports, countWord_ctrl, countWord_ports, loadPattern, hwr]
  · simp only [finishCommand, sendResponse, rspCount, spoiledFrom, nextEntry_arch, nextEntry_ctrl,
      nextEntry_ports, countWord_ctrl, countWord_ports, setFault_write, hillegal]

/-- The illegal entry `v` met, the rest of the payload is drained (R144, R152). -/
theorem loadEnd_illegal {v : Nat} (hv : legalEntry v = false) (vs : List Nat) (tag : Nat) (s : State) :
    finishCommand .start s.ctrl.curLen .badPattern
      (clearPat (errorTo .badPattern .drain (countWord s))) = loadEnd (v :: vs) tag s := by
  have hfirst : firstIllegal (v :: vs) = 0 := by
    rw [firstIllegal, List.takeWhile_cons_of_neg (by rw [hv]; decide)]; rfl
  rw [loadEnd, List.all_cons, hv, Bool.false_and, if_neg (by decide), spoiledFrom, hfirst]
  rfl

/-- START_PAT takes one pattern word (R67, R68, R144). -/
theorem LoadRun.entry {p : Params} {n : Nat} {s : State} (h : LoadRun (n + 2) s)
    (hph : s.ctrl.phase = .startPat) (hidx : s.ctrl.wrIdx < p.patternMax) {v : Nat}
    (hv : v < 2 ^ fieldBits p) (ds : List Nat) :
    (legalEntry v = false → cycle p (withDin (v :: ds) s) =
      .next (withDin ds (clearPat (errorTo .badPattern .drain (countWord s))))) ∧
    (legalEntry v = true → cycle p (withDin (v :: ds) s) =
      .next (withDin ds (nextEntry { s.arch with pat := Store.write s.arch.pat s.ctrl.wrIdx v }
        (countWord s)))) := by
  have hword := wordInContract_start p h.ne_badCommand h.curOp v
  rw [if_neg (by rw [h.rem]; omega)] at hword
  have hedge : clockEdge p (envPins p (withDin (v :: ds) s)) (withDin (v :: ds) s) = _ :=
    clockEdge_startPat (envPins_rst_of_serving h.serving) hph
  have hstep := (clockEdge_word hv hedge).trans
    (dinStep_startPat (s := withDin (v :: ds) s) hword hph)
  have htake : ∀ {t : State}, startPatStep p v (withDin (v :: ds) s) = .next (withDin (v :: ds) t) →
      cycle p (withDin (v :: ds) s) = .next (withDin ds t) := fun ht =>
    cycle_word h.serving (by rw [cmdReady, hph]; rfl) (by simp only [dinReady, hph]) hv
      (hstep.trans ht)
  rcases startPatStep_cases (p := p) (s := withDin (v :: ds) s) hidx v with ⟨hl, hr⟩ | ⟨hl, hr⟩ <;>
    rw [hl]
  · exact ⟨fun _ => htake (t := clearPat (errorTo .badPattern .drain (countWord s))) hr,
      fun h => (by cases h)⟩
  · exact ⟨fun h => (by cases h), fun _ => htake (t := nextEntry
      { s.arch with pat := Store.write s.arch.pat s.ctrl.wrIdx v } (countWord s)) hr⟩

/-- After an illegal entry the rest of the payload is drained, its tag under the contract (R67, R152). -/
theorem LoadRun.spoiled_reaches {p : Params} (v : Nat) (vs : List Nat) (tag : Nat) (rest : List Nat)
    {s : State} (h : LoadRun (vs.length + 2) s) (hv : legalEntry v = false)
    (hfit : ∀ w ∈ vs ++ [tag], w < 2 ^ fieldBits p) :
    Reaches p (withDin (vs ++ [tag] ++ rest) (clearPat (errorTo .badPattern .drain (countWord s))))
      (underContract (canonicalWord p tag) (loadEnd (v :: vs) tag (withDin rest s))) := by
  have hrem : (countWord s).ctrl.rem = vs.length + 1 := by rw [countWord_ctrl, h.rem]; rfl
  have hcon := wordsInContract_start p
    (c := (clearPat (errorTo .badPattern .drain (countWord s))).ctrl)
    (show Status.badPattern ≠ .badCommand by decide) h.curOp vs tag hrem
  have hdrain := drain_reaches (p := p) (vs ++ [tag]) rest
    (s := clearPat (errorTo .badPattern .drain (countWord s))) h.serving rfl
    (show Status.badPattern ≠ .ok by decide) (by rw [List.length_append]; exact hrem) hfit
  have hop : (clearPat (errorTo .badPattern .drain (countWord s))).ctrl.curOp = .start := h.curOp
  rw [hcon, hop] at hdrain
  rw [← loadEnd_illegal hv]
  exact hdrain

/-- START's load against the words it is given (R144, R145, R160). -/
theorem LoadRun.reaches {p : Params} (v : Nat) (vs : List Nat) (tag : Nat) (rest : List Nat)
    {s : State} (h : LoadRun (vs.length + 2) s) (hph : s.ctrl.phase = .startPat)
    (hidx : s.ctrl.wrIdx + (vs.length + 1) = s.ctrl.curLen.toNat)
    (hmax : s.ctrl.curLen.toNat ≤ p.patternMax) (hfit : ∀ w ∈ v :: vs ++ [tag], w < 2 ^ fieldBits p) :
    Reaches p (withDin (v :: vs ++ [tag] ++ rest) s)
      (underContract (canonicalWord p tag) (loadEnd (v :: vs) tag (withDin rest s))) := by
  induction vs generalizing v s with
  | nil =>
    obtain ⟨hbad, hgood⟩ := h.entry hph (p := p) (by omega) (hfit v (List.mem_cons_self ..))
      ([tag] ++ rest)
    cases hl : legalEntry v with
    | false =>
      exact (h.spoiled_reaches v [] tag rest hl fun w hw => hfit w (List.mem_cons_of_mem _ hw)).after
        (hbad hl)
    | true =>
      have hlast : s.ctrl.wrIdx + 1 = s.ctrl.curLen.toNat := hidx
      have hnext : LoadRun 1 (nextEntry { s.arch with pat := Store.write s.arch.pat s.ctrl.wrIdx v }
          (countWord s)) := ⟨h.serving, h.curOp, h.pend, by
        rw [nextEntry_ctrl, countWord_ctrl, h.rem]; rfl⟩
      have htag := hnext.tag_reaches (if_pos hlast)
        (hfit tag (List.mem_append_right _ (List.mem_singleton.2 rfl))) rest
      rw [← loadEnd_cons hl]
      exact htag.after (hgood hl)
  | cons v' vs ih =>
    obtain ⟨hbad, hgood⟩ := h.entry hph (p := p) (by omega) (hfit v (List.mem_cons_self ..))
      (v' :: vs ++ [tag] ++ rest)
    have hfit' : ∀ w ∈ v' :: vs ++ [tag], w < 2 ^ fieldBits p := fun w hw =>
      hfit w (List.mem_cons_of_mem _ hw)
    cases hl : legalEntry v with
    | false => exact (h.spoiled_reaches v (v' :: vs) tag rest hl hfit').after (hbad hl)
    | true =>
      rw [List.length_cons] at hidx
      have hmore : ¬s.ctrl.wrIdx + 1 = s.ctrl.curLen.toNat := by omega
      have hnext : LoadRun (vs.length + 2)
          (nextEntry { s.arch with pat := Store.write s.arch.pat s.ctrl.wrIdx v } (countWord s)) :=
        ⟨h.serving, h.curOp, h.pend, by rw [nextEntry_ctrl, countWord_ctrl, h.rem]; rfl⟩
      have hidx' : s.ctrl.wrIdx + 1 + (vs.length + 1) = s.ctrl.curLen.toNat := by omega
      have tail := ih v' hnext (if_neg hmore) hidx' hmax hfit'
      rw [← loadEnd_cons hl]
      exact tail.after (hgood hl)

end Sys2Proof.Proofs
end

section
/-! The refinement of every command (R160): from the accepted header on, the micro-steps reach what the
command's transition answers. -/

namespace Sys2Proof.Proofs

open Sys2Proof Sys2Proof.Machine Sys2Proof.Laws

/-- The header `h` accepted with the payload words `ws` offered, the micro-steps reach `r` (R142, R160). -/
def Refined (p : Params) (h : Header) (s : State) (ws rest : List Nat) (r : Result) : Prop :=
  ∃ t, idleStep p h s = .next t ∧ t.ports = s.ports ∧ Reaches p (taken (ws ++ rest) t) r

section Commands

variable {p : Params} {h : Header} {s : State} (rest : List Nat)

/-- A malformed header: BadCommand, the payload drained unread (R65, R175). -/
theorem malformed_refined (hs : serving s.ports = true) (hw : hdrWellFormed h = false)
    {ws : List Nat} (hlen : ws.length = paylen h) (hfit : ∀ w ∈ ws, w < 2 ^ fieldBits p) :
    Refined p h s ws rest (execMalformed h (taken rest s)) := by
  refine ⟨_, idleStep_malformed hw s, rfl, ?_⟩
  have hdrain := drain_reaches ws rest
    (s := errorTo .badCommand .drain (acceptHeader h (taken [] s))) hs rfl
    (show Status.badCommand ≠ .ok by decide) hlen.symm hfit
  rw [wordsInContract_badCommand p rfl] at hdrain
  exact hdrain

/-! ### START -/

theorem startWith_eq (p : Params) (pattern : List Nat) (tag : Nat) (s : State) :
    startWith p pattern tag s =
      underContract (canonicalWord p tag) (startOn p pattern tag (startClear s)) := by
  unfold startWith
  cases canonicalWord p tag <;> rfl

/-- START's load on the cleared engine ends as its checks and load say (R90, R91). -/
theorem loadEnd_startClear {pattern : List Nat} (hmax : pattern.length ≤ p.patternMax)
    (hlen : hdrLen h = BitVec.ofNat 16 pattern.length) (hfits : (hdrLen h).toNat = pattern.length)
    (tag : Nat) (ph : Phase) :
    loadEnd pattern tag (goto ph (startClear (acceptHeader h s))) =
      startOn p pattern tag (startClear s) := by
  unfold loadEnd startOn
  have hcur : (goto ph (startClear (acceptHeader h s))).ctrl.curLen = hdrLen h := rfl
  rw [if_neg (Nat.not_lt.2 hmax), hcur, hlen]
  cases hl : pattern.all legalEntry
  · exact finishCommand_withCtrl .start _ .badPattern
      { startClear s with
        arch := setFault .badPattern (startClear s).arch
        ctrl := { (startClear s).ctrl with wrIdx := firstIllegal pattern } }
      (c := (spoiledFrom pattern (goto ph (startClear (acceptHeader h s)))).ctrl) (Nat.zero_add _) rfl
  · have hload : loadedFrom pattern tag (goto ph (startClear (acceptHeader h s))) =
        withCtrl (loadedFrom pattern tag (goto ph (startClear (acceptHeader h s)))).ctrl
          (startLoad pattern tag (startClear s)) := by
      unfold loadedFrom
      rw [hcur, hfits]
      rfl
    rw [if_pos rfl, hload]
    exact finishCommand_withCtrl .start _ .ok (startLoad pattern tag (startClear s))
      (Nat.zero_add _) rfl

theorem start_refined (hs : serving s.ports = true) (hw : hdrWellFormed h = true)
    (hop : hdrOp h = .start) {pattern : List Nat} (hfits : (hdrLen h).toNat = pattern.length)
    (tag : Nat) (hfit : ∀ w ∈ pattern ++ [tag], w < 2 ^ fieldBits p) :
    Refined p h s (pattern ++ [tag]) rest (startWith p pattern tag (taken rest s)) := by
  have hlen : hdrLen h = BitVec.ofNat 16 pattern.length := by rw [← hfits, ofNat_toNat_len]
  have hrem : paylen h = pattern.length + 1 := by rw [paylen_eq h hop]; exact congrArg (· + 1) hfits
  refine ⟨_, idleStep_start hw hop s, rfl, ?_⟩
  rw [startWith_eq]
  have hclr : cycle p (taken (pattern ++ [tag] ++ rest) (goto .startClr (acceptHeader h s))) =
      .next (startClrStep p (taken (pattern ++ [tag] ++ rest) (goto .startClr (acceptHeader h s)))) :=
    cycle_quiet rfl rfl (clockEdge_startClr
      (envPins_rst_of_serving
        (s := taken (pattern ++ [tag] ++ rest) (goto .startClr (acceptHeader h s))) hs) rfl)
  rcases startClrStep_cases p (taken (pattern ++ [tag] ++ rest) (goto .startClr (acceptHeader h s)))
    with ⟨hbig, hr⟩ | ⟨hmax, hzero, hr⟩ | ⟨hmax, hpos, hr⟩ <;> rw [hr] at hclr
  · replace hbig : p.patternMax < pattern.length := by rw [← hfits]; exact hbig
    have hdrain := drain_reaches (p := p) (pattern ++ [tag]) rest
      (s := errorTo .capacity .drain (startClear (acceptHeader h (taken [] s)))) hs rfl
      (show Status.capacity ≠ .ok by decide) (by rw [List.length_append]; exact hrem) hfit
    have hcon := wordsInContract_start p
      (c := (errorTo .capacity .drain (startClear (acceptHeader h (taken [] s)))).ctrl)
      (show Status.capacity ≠ .badCommand by decide) hop pattern tag hrem
    rw [hcon] at hdrain
    have hend : startOn p pattern tag (startClear (taken rest s)) =
        raiseError .start (BitVec.ofNat 16 pattern.length) .capacity (startClear (taken rest s)) :=
      if_pos hbig
    rw [hend, ← hlen, ← hop]
    exact hdrain.after hclr
  · replace hzero : pattern.length = 0 := by rw [← hfits]; exact hzero
    obtain rfl := List.eq_nil_of_length_eq_zero hzero
    have hload : LoadRun 1 (goto .startTag (startClear (acceptHeader h (taken [] s)))) :=
      ⟨hs, hop, rfl, hrem⟩
    have htag := hload.tag_reaches (p := p) rfl (hfit tag (List.mem_singleton.2 rfl)) rest
    rw [← loadEnd_startClear (s := taken rest s) (Nat.zero_le _) hlen hfits tag .startTag]
    exact htag.after hclr
  · replace hmax : (hdrLen h).toNat ≤ p.patternMax := hmax
    replace hpos : 0 < pattern.length := by rw [← hfits]; exact hpos
    cases pattern with
    | nil => cases hpos
    | cons v vs =>
      have hload : LoadRun (vs.length + 2) (goto .startPat (startClear (acceptHeader h (taken [] s)))) :=
        ⟨hs, hop, rfl, hrem⟩
      have hidx : 0 + (vs.length + 1) = (hdrLen h).toNat := by rw [hfits, List.length_cons]; omega
      have hrun := hload.reaches (p := p) v vs tag rest rfl hidx hmax hfit
      rw [← loadEnd_startClear (s := taken rest s) (by rw [← hfits]; exact hmax) hlen hfits tag .startPat]
      exact hrun.after hclr

/-! ### ABSORB -/

theorem absorbWith_exhausted (p : Params) (input : List Nat) {s : State}
    (he : s.arch.ioCount = s.arch.patternLen) :
    absorbWith p input s = underContract (input.all (canonicalWord p))
      (raiseError .absorb (BitVec.ofNat 16 input.length) .patternExhausted s) := by
  unfold absorbWith
  rw [if_pos he]
  cases input.all (canonicalWord p) <;> rfl

theorem absorbWith_mismatch {p : Params} {input : List Nat} {s : State}
    (he : s.arch.ioCount ≠ s.arch.patternLen) (hi : s.arch.ioCount < p.patternMax)
    (hn : Store.read s.arch.pat s.arch.ioCount ≠ input.length) :
    absorbWith p input s = underContract (input.all (canonicalWord p))
      (raiseError .absorb (BitVec.ofNat 16 input.length) .patternMismatch s) := by
  unfold absorbWith patRead
  rw [if_neg he, if_pos hi]
  cases input.all (canonicalWord p)
  · rfl
  · exact if_pos hn

theorem absorbWith_match {p : Params} {input : List Nat} {s : State}
    (he : s.arch.ioCount ≠ s.arch.patternLen) (hi : s.arch.ioCount < p.patternMax)
    (hn : Store.read s.arch.pat s.arch.ioCount = input.length) :
    absorbWith p input s = underContract (input.all (canonicalWord p))
      (finishCommand .absorb (BitVec.ofNat 16 input.length) .ok
        (absorbDone (absorbElems p input s))) := by
  unfold absorbWith patRead
  rw [if_neg he, if_pos hi]
  cases input.all (canonicalWord p)
  · rfl
  · exact if_neg (not_not.2 hn)

theorem absorb_refined (hp : p.Valid) (hs : serving s.ports = true) (hsound : Sound p s)
    (hw : hdrWellFormed h = true) (hop : hdrOp h = .absorb) {input : List Nat}
    (hfits : (hdrLen h).toNat = input.length) (hfit : ∀ w ∈ input, w < 2 ^ fieldBits p) :
    Refined p h s input rest (absorbWith p input (taken rest s)) := by
  have hlen : hdrLen h = BitVec.ofNat 16 input.length := by rw [← hfits, ofNat_toNat_len]
  have hrem : paylen h = input.length := by rw [paylen_eq h hop]; exact hfits
  have hdrain : ∀ c : Status, c ≠ .ok → c ≠ .badCommand →
      Reaches p (taken (input ++ rest) (errorTo c .drain (acceptHeader h s)))
        (underContract (input.all (canonicalWord p))
          (raiseError .absorb (BitVec.ofNat 16 input.length) c (taken rest s))) := by
    intro c hc hbad
    have hrun := drain_reaches input rest (s := errorTo c .drain (acceptHeader h (taken [] s))) hs
      rfl hc hrem hfit
    have hcon := wordsInContract_absorb p
      (c := (errorTo c .drain (acceptHeader h (taken [] s))).ctrl) hbad hop input
    rw [hcon] at hrun
    rw [← hlen, ← hop]
    exact hrun
  unfold Refined
  rw [idleStep_absorb hw hop]
  rcases acceptAbsorb_cases p (acceptHeader h s) with
    ⟨he, hr⟩ | ⟨he, hmax, -⟩ | ⟨he, hi, hn, hr⟩ | ⟨he, hi, hn, hr⟩
  · refine ⟨_, hr, rfl, ?_⟩
    rw [absorbWith_exhausted p input (s := taken rest s) he]
    exact hdrain .patternExhausted (by decide) (by decide)
  · exact absurd (archInv_live hsound.arch he).2 (Nat.not_lt.2 hmax)
  · refine ⟨_, hr, rfl, ?_⟩
    replace hn : Store.read s.arch.pat s.arch.ioCount ≠ input.length := by rw [← hfits]; exact hn
    rw [absorbWith_mismatch (s := taken rest s) he hi hn]
    exact hdrain .patternMismatch (by decide) (by decide)
  · refine ⟨_, hr, rfl, ?_⟩
    replace hn : Store.read s.arch.pat s.arch.ioCount = input.length := by rw [← hfits]; exact hn
    have hpos := (hsound.arch.entry_legal _ (archInv_live hsound.arch he).1).1
    rw [absorbWith_match (s := taken rest s) he hi hn]
    cases input with
    | nil => rw [hn] at hpos; cases hpos
    | cons x xs =>
      have hrun : AbsorbRun p (xs.length + 1) (goto .absElem (acceptHeader h (taken [] s))) :=
        ⟨hs, rfl, hop, rfl, hsound.unit, hsound.arch.lanes_canonical, hrem⟩
      have hreach := hrun.reaches hp x xs rest hfit
      have hend : absorbEnd p (x :: xs) (withDin rest (goto .absElem (acceptHeader h (taken [] s)))) =
          finishCommand .absorb (hdrLen h) .ok (absorbDone (absorbElems p (x :: xs) (taken rest s))) := by
        have hctrl : withDin rest (goto .absElem (acceptHeader h (taken [] s))) =
            withCtrl (goto .absElem (acceptHeader h s)).ctrl (taken rest s) := rfl
        obtain ⟨_, _, _, hframe⟩ := absorbElems_frame p (x :: xs) (taken rest s)
        rw [absorbEnd, hctrl, absorbElems_withCtrl]
        exact finishCommand_withCtrl _ _ _ (absorbDone (absorbElems p (x :: xs) (taken rest s)))
          (by rw [absorbDone_ctrl, hframe]; rfl) (by rw [absorbDone_ctrl, hframe]; rfl)
      rw [hend] at hreach
      rw [← hlen]
      exact hreach

/-! ### SQUEEZE and FINISH -/

theorem squeezeWith_full {p : Params} {s : State} (he : s.arch.ioCount ≠ s.arch.patternLen)
    (hi : s.arch.ioCount < p.patternMax)
    (hn : p.outMax < s.arch.outLen + Store.read s.arch.pat s.arch.ioCount) :
    squeezeWith p s = .next (raiseError .squeeze 0 .capacity s) := by
  unfold squeezeWith patRead
  rw [if_neg he, if_pos hi]
  exact if_pos hn

theorem squeeze_refined (hp : p.Valid) (hs : serving s.ports = true) (hsound : Sound p s)
    (hw : hdrWellFormed h = true) (hop : hdrOp h = .squeeze) :
    Refined p h s [] rest (squeezeWith p (taken rest s)) := by
  have hlen : hdrLen h = 0 := by
    obtain ⟨-, -, hcount⟩ := (hdrWellFormed_iff h).1 hw
    rw [hop] at hcount
    simpa using hcount
  have hrem : paylen h = 0 := paylen_eq h hop
  have herror : ∀ c : Status, c ≠ .ok →
      Reaches p (taken ([] ++ rest) (errorTo c .resp (acceptHeader h s)))
        (.next (raiseError .squeeze 0 c (taken rest s))) := by
    intro c hc
    rw [← hlen]
    exact resp_reaches (s := errorTo c .resp (acceptHeader h (taken rest s))) hs rfl hrem hop rfl
      fun hsq => hc hsq.2
  unfold Refined
  rw [idleStep_squeeze hw hop]
  rcases acceptSqueeze_cases p (acceptHeader h s) with
    ⟨he, hr⟩ | ⟨he, hmax, -⟩ | ⟨he, hi, hn, hr⟩ | ⟨he, hi, hroom, hr⟩
  · refine ⟨_, hr, rfl, ?_⟩
    have hrun : squeezeWith p (taken rest s) = _ := if_pos he
    rw [hrun]
    exact herror .patternExhausted (by decide)
  · exact absurd (archInv_live hsound.arch he).2 (Nat.not_lt.2 hmax)
  · refine ⟨_, hr, rfl, ?_⟩
    rw [squeezeWith_full (s := taken rest s) he hi hn]
    exact herror .capacity (by decide)
  · refine ⟨_, hr, rfl, ?_⟩
    obtain ⟨u, hu, hrun⟩ := squeezeWith_of_room (s := taken rest s) he hi hroom
    have hpos := (hsound.arch.entry_legal _ (archInv_live hsound.arch he).1).1
    obtain ⟨n, hn⟩ := Nat.exists_eq_add_of_le' hpos
    have hentry : Store.read (taken rest s).arch.pat (taken rest s).arch.ioCount = n + 1 := hn
    have hroom' : s.arch.outLen + (n + 1) ≤ p.outMax := by rw [← hn]; exact hroom
    rw [hentry] at hu
    have hstart : SqueezeRun p (n + 1)
        (withCtrl (goto .sqzElem { (acceptHeader h s) with
          ctrl := { (acceptHeader h s).ctrl with rem := Store.read s.arch.pat s.arch.ioCount } }).ctrl
          (taken rest s)) :=
      ⟨hs, rfl, hop, rfl, hsound.unit, hsound.arch.lanes_canonical, hn, hroom'⟩
    have hreach := hstart.reaches hp (squeezeElems_withCtrl hu _)
    have hctrl := squeezeElems_ctrl hu
    rw [squeezeEnd_withCtrl _ (by rw [hctrl]; rfl) (by rw [hctrl]; rfl)] at hreach
    rw [hrun, ← hlen]
    exact hreach

theorem finish_refined (hs : serving s.ports = true) (hw : hdrWellFormed h = true)
    (hop : hdrOp h = .finish) : Refined p h s [] rest (execFinish (taken rest s)) := by
  have hlen : hdrLen h = 0 := by
    obtain ⟨-, -, hcount⟩ := (hdrWellFormed_iff h).1 hw
    rw [hop] at hcount
    simpa using hcount
  have hrem : paylen h = 0 := paylen_eq h hop
  refine ⟨_, idleStep_finish hw hop s, rfl, ?_⟩
  have hclr : cycle p (taken rest (goto .finClr (acceptHeader h s))) =
      .next (finClrStep (taken rest (goto .finClr (acceptHeader h s)))) :=
    cycle_quiet rfl rfl (clockEdge_finClr
      (envPins_rst_of_serving (s := taken rest (goto .finClr (acceptHeader h s))) hs) rfl)
  have hend := resp_reaches (p := p) (s := finClrStep (taken rest (goto .finClr (acceptHeader h s))))
    hs rfl hrem hop (show _ = Status.ok from rfl) (by decide)
  have hcur : (finClrStep (taken rest (goto .finClr (acceptHeader h s)))).ctrl.curLen = 0 := hlen
  rw [hcur] at hend
  exact hend.after hclr

end Commands

/-! ## The refinement -/

/-- A well-formed header offered whole: the micro-steps reach what the command answers. -/
theorem commandOf_refined {p : Params} (hp : p.Valid) {h : Header} {s : State}
    (hs : serving s.ports = true) (hsound : Sound p s) (hw : hdrWellFormed h = true) {ws : List Nat}
    (hlen : ws.length = paylen h) (hfit : ∀ w ∈ ws, w < 2 ^ fieldBits p) (rest : List Nat) :
    Refined p h s ws rest (execWith p (commandOf h ws) (taken rest s)) := by
  unfold commandOf
  cases hop : hdrOp h <;> rw [paylen_eq h hop] at hlen <;> dsimp only at hlen ⊢
  case start =>
    have hfits : (hdrLen h).toNat = (ws.take (hdrLen h).toNat).length := by
      rw [List.length_take]; omega
    rw [← take_append_last hlen] at hfit
    have href := start_refined rest hs hw hop hfits (ws.getD (hdrLen h).toNat 0) hfit
    rwa [take_append_last hlen] at href
  case absorb => exact absorb_refined rest hp hs hsound hw hop hlen.symm hfit
  case squeeze =>
    obtain rfl := List.eq_nil_of_length_eq_zero hlen
    exact squeeze_refined rest hp hs hsound hw hop
  case finish =>
    obtain rfl := List.eq_nil_of_length_eq_zero hlen
    exact finish_refined rest hs hw hop

/-- The step that takes an offered command whole (R6, R47). -/
theorem stepBy_offered {p : Params} {h : Header} {s : State} (ho : Offered p h s)
    (run : Instr → State → Result) :
    stepBy run p s =
      if hdrWellFormed h = true then
        run (commandOf h (s.ports.dinIn.take (paylen h))) (taken (s.ports.dinIn.drop (paylen h)) s)
      else execMalformed h (taken (s.ports.dinIn.drop (paylen h)) s) := by
  have hfetch := fetch_offered ho
  obtain ⟨-, -, -, hlen, -⟩ := ho
  unfold stepBy
  rw [hfetch]
  cases hw : hdrWellFormed h with
  | false => rw [decode_malformed hw]; rfl
  | true => rw [decode_whole hw hlen]; rfl

/-- A command offered whole: some number of edges answers what the step answers (R160). -/
theorem offered_refined {p : Params} (hp : p.Valid) {h : Header} {s : State} (hinv : Inv p s)
    (ho : Offered p h s) : ∃ k, 0 < k ∧ cycles p k s = stepBy (execWith p) p s := by
  have hstep := stepBy_offered ho (execWith p)
  obtain ⟨hph, hs, hcmd, hlen, hfit⟩ := ho
  have hsound := inv_sound hinv (by rw [hph]; decide) (by rw [hph]; decide) (by rw [hph]; decide)
  have hwords : (s.ports.dinIn.take (paylen h)).length = paylen h := by rw [List.length_take]; omega
  have href : Refined p h s (s.ports.dinIn.take (paylen h)) (s.ports.dinIn.drop (paylen h))
      (stepBy (execWith p) p s) := by
    rw [hstep]
    cases hw : hdrWellFormed h with
    | false => exact malformed_refined _ hs hw hwords hfit
    | true => exact commandOf_refined hp hs hsound hw hwords hfit _
  obtain ⟨t, hidle, hports, k, hk⟩ := href
  rw [List.take_append_drop] at hk
  have hfirst := cycle_header hs hph hcmd hidle hports
  exact ⟨k + 1, Nat.succ_pos k, (cycles_succ_of_next hfirst k).trans hk⟩

theorem step_eq_stepBy (s : State) : step s = stepBy (execWith Config.hw) Config.hw s := by
  rw [step, funext fun i => funext (exec_eq_execWith i)]

/-- Settles O55: `offered_refined` at this hardware. -/
theorem controllerRefinesTheCommand : Obligations.ControllerRefinesTheCommand := by
  unfold Obligations.ControllerRefinesTheCommand
  intro h s hinv ho
  rw [step_eq_stepBy]
  exact offered_refined hw_valid hinv ho

/-! ## What every edge keeps, every step keeps -/

theorem inv_takeOffered {p : Params} {t : State} (hinv : Inv p t) (tr : Transfers) :
    Inv p (takeOffered tr t) :=
  ⟨hinv.phase, hinv.permUnit, hinv.rem_le, hinv.wrIdx_le, hinv.doutIdx_le⟩

theorem cycle_safe {p : Params} (hp : p.Valid) {s : State} (hinv : Inv p s) :
    SafeResult p (cycle p s) := by
  have hedge := clockEdge_safe hp hinv (envPins p s)
  unfold cycle
  cases hr : clockEdge p (envPins p s) s <;> rw [hr] at hedge
  case next t => exact inv_takeOffered hedge _
  case fault f => exact hedge
  case refused x => trivial

theorem cycles_safe {p : Params} (hp : p.Valid) (k : Nat) {s : State} (hinv : Inv p s) :
    SafeResult p (cycles p k s) := by
  induction k generalizing s with
  | zero => exact hinv
  | succ k ih =>
    have hcycle := cycle_safe hp hinv
    rw [cycles]
    cases hr : cycle p s <;> rw [hr] at hcycle
    case next t => exact ih hcycle
    case fault f => exact hcycle
    case refused x => trivial

/-- A step is an edge, or takes whole what is offered to an idle controller. -/
theorem step_edge_or_offered (s : State) :
    step s = cycle Config.hw s ∨ ∃ h, Offered Config.hw h s := by
  rcases fetch_cases Config.hw s with hf | ⟨h, more, hph, hs, hcmd, hp, -⟩
  · left; rw [step, stepBy, hf]
  · exact .inr ⟨h, hph, hs, by rw [hcmd]; rfl, (presented_iff _ _ _).1 hp⟩

/-- A step is some number of edges, so it keeps the invariant and leaves no store. -/
theorem step_safe {s : State} (hinv : Inv Config.hw s) : SafeResult Config.hw (step s) := by
  rcases step_edge_or_offered s with hedge | ⟨h, ho⟩
  · rw [hedge]; exact cycle_safe hw_valid hinv
  · obtain ⟨k, -, hk⟩ := offered_refined hw_valid hinv ho
    rw [step_eq_stepBy, ← hk]
    exact cycles_safe hw_valid k hinv

/-- Settles O51: a step is some number of edges, each of which keeps the invariant. -/
theorem everyStepKeepsTheInvariant : Obligations.EveryStepKeepsTheInvariant := by
  unfold Obligations.EveryStepKeepsTheInvariant
  intro s t hinv hstep
  have safe := step_safe hinv
  rwa [hstep] at safe

/-- Settles O53: neither an edge nor a step, which is some number of edges, faults. -/
theorem noIndexLeavesItsStore : Obligations.NoIndexLeavesItsStore := by
  unfold Obligations.NoIndexLeavesItsStore
  intro s hinv
  refine ⟨fun f hf => ?_, fun pins f hf => ?_⟩
  · have safe := step_safe hinv
    rw [hf] at safe
    exact safe
  · have safe := clockEdge_safe hw_valid hinv pins
    rw [hf] at safe
    exact safe

end Sys2Proof.Proofs
end

section
/-! The rules of the port level: what an edge that answers has done (R140 to R155), and with it the waits
and the held offers (R61, R161), the arbiter (R128), the mux (R134), the trigger points of the permutation
(R130), reset (R201), and what the ports carry and hide (R14, R60). -/

namespace Sys2Proof.Proofs

open Sys2Proof Sys2Proof.Machine Sys2Proof.Laws

/-! ## What an edge can do -/

/-- Everything an edge that answers can have done, one case for each micro-step (R142 to R154), for reset
(R201) and for the edge that changes nothing. -/
inductive EdgeTo (p : Params) (pins : Pins p) (s : State) : State → Prop
  | reset (hrst : pins.rst = true) : EdgeTo p pins s (resetBlock s)
  | accept {t : State} (h : Header) (hrst : pins.rst = false) (hph : s.ctrl.phase = .idle)
      (hidle : idleStep p h s = .next t) : EdgeTo p pins s t
  | clear (hrst : pins.rst = false) (hph : s.ctrl.phase = .startClr) :
      EdgeTo p pins s (startClrStep p s)
  | entry {t : State} (w : FieldWord p) (hrst : pins.rst = false) (hph : s.ctrl.phase = .startPat)
      (ht : startPatStep p w.toNat s = .next t) : EdgeTo p pins s t
  | tag (w : FieldWord p) (hrst : pins.rst = false) (hph : s.ctrl.phase = .startTag)
      (hdin : pins.din = some w) : EdgeTo p pins s (startTagStep w.toNat s)
  | word (w : FieldWord p) (i : Fin WIDTH) (hrst : pins.rst = false)
      (hph : s.ctrl.phase = .absElem) (hdin : pins.din = some w)
      (hi : rateLane s.arch.absorbPos = some i) : EdgeTo p pins s (absElemStep p i w.toNat s)
  | elem {t : State} (i : Fin WIDTH) (hrst : pins.rst = false) (hph : s.ctrl.phase = .sqzElem)
      (ht : sqzElemStep p i s = .next t) : EdgeTo p pins s t
  | ask (hrst : pins.rst = false)
      (hask : s.ctrl.phase = .absElem ∧ s.arch.absorbPos = sentinel ∨
        s.ctrl.phase = .sqzElem ∧ s.arch.squeezePos = sentinel) :
      EdgeTo p pins s (goto .permReq s)
  | request (hrst : pins.rst = false) (hph : s.ctrl.phase = .permReq) :
      EdgeTo p pins s (permReqStep s)
  | answer (v : StateWord p) (hrst : pins.rst = false) (hph : s.ctrl.phase = .permWait)
      (hprsp : pins.prsp = some v) :
      EdgeTo p pins s (writeBack (unpackLanes p v) (setUnit none s))
  | wipe (hrst : pins.rst = false) (hph : s.ctrl.phase = .finClr) : EdgeTo p pins s (finClrStep s)
  | drained (hrst : pins.rst = false) (hph : s.ctrl.phase = .drain) : EdgeTo p pins s (goto .resp s)
  | discard (hrst : pins.rst = false) (hph : s.ctrl.phase = .drain) : EdgeTo p pins s (countWord s)
  | respond (hrst : pins.rst = false) (hph : s.ctrl.phase = .resp) : EdgeTo p pins s (respStep s)
  | stream {t : State} (hrst : pins.rst = false) (hph : s.ctrl.phase = .dout)
      (ht : doutStep p s = .next t) : EdgeTo p pins s t
  | wait (hrst : pins.rst = false) (hclr : s.ctrl.phase ≠ .startClr) (hfin : s.ctrl.phase ≠ .finClr)
      (hdin : s.ctrl.phase = .startTag ∨ s.ctrl.phase = .absElem → pins.din = none)
      (hprsp : s.ctrl.phase = .permWait → pins.prsp = none) : EdgeTo p pins s s

section Edges

variable {p : Params} {pins : Pins p} {s t : State}

/-- An offer that is absent leaves the state, and one that is there runs its micro-step (R61). -/
theorem elim_next {α : Type} {o : Option α} {f : α → Result} (h : o.elim (.next s) f = .next t) :
    (o = none ∧ t = s) ∨ ∃ a, o = some a ∧ f a = .next t := by
  cases o with
  | none => exact .inl ⟨rfl, (Host.Outcome.next.inj h).symm⟩
  | some a => exact .inr ⟨a, rfl, h⟩

theorem dinStep_next {w : Nat} (h : dinStep p w s = .next t) : wordInContract p s.ctrl w = true := by
  cases hw : wordInContract p s.ctrl w with
  | true => rfl
  | false => rw [dinStep_refused hw] at h; cases h

theorem permWaitStep_next {l : Lanes} (h : permWaitStep p l s = .next t) :
    t = writeBack l (setUnit none s) := by
  cases hl : canonicalLanes p l with
  | true => rw [permWaitStep_of_canonical hl] at h; cases h; rfl
  | false => simp only [permWaitStep, hl, Bool.not_false, if_true] at h; cases h

theorem edgeTo_of_next (h : clockEdge p pins s = .next t) : EdgeTo p pins s t := by
  cases hrst : pins.rst with
  | true => rw [clockEdge_reset hrst] at h; cases h; exact .reset hrst
  | false =>
    cases hph : s.ctrl.phase
    case idle =>
      rw [clockEdge_idle hrst hph] at h
      rcases elim_next h with ⟨-, rfl⟩ | ⟨hd, -, ht⟩
      · exact .wait hrst (by simp [hph]) (by simp [hph]) (by simp [hph]) (by simp [hph])
      · exact .accept hd hrst hph ht
    case startClr => rw [clockEdge_startClr hrst hph] at h; cases h; exact .clear hrst hph
    case startPat =>
      rw [clockEdge_startPat hrst hph] at h
      rcases elim_next h with ⟨-, rfl⟩ | ⟨w, -, ht⟩
      · exact .wait hrst (by simp [hph]) (by simp [hph]) (by simp [hph]) (by simp [hph])
      · rw [dinStep_startPat (dinStep_next ht) hph] at ht
        exact .entry w hrst hph ht
    case startTag =>
      rw [clockEdge_startTag hrst hph] at h
      rcases elim_next h with ⟨hno, rfl⟩ | ⟨w, hw, ht⟩
      · exact .wait hrst (by simp [hph]) (by simp [hph]) (fun _ => hno) (by simp [hph])
      · rw [dinStep_startTag (dinStep_next ht) hph] at ht
        cases ht
        exact .tag w hrst hph hw
    case absElem =>
      rcases rateLane_cases s.arch.absorbPos with ⟨i, hi, -⟩ | ⟨-, hpos⟩
      · rw [clockEdge_absElem_lane hrst hph hi] at h
        rcases elim_next h with ⟨hno, rfl⟩ | ⟨w, hw, ht⟩
        · exact .wait hrst (by simp [hph]) (by simp [hph]) (fun _ => hno) (by simp [hph])
        · rw [dinStep_absElem (dinStep_next ht) hph hi] at ht
          cases ht
          exact .word w i hrst hph hw hi
      · rw [clockEdge_absElem_rate hrst hph hpos] at h
        cases h
        exact .ask hrst (.inl ⟨hph, hpos⟩)
    case sqzElem =>
      rcases rateLane_cases s.arch.squeezePos with ⟨i, hi, -⟩ | ⟨-, hpos⟩
      · rw [clockEdge_sqzElem_lane hrst hph hi] at h
        exact .elem i hrst hph h
      · rw [clockEdge_sqzElem_rate hrst hph hpos] at h
        cases h
        exact .ask hrst (.inr ⟨hph, hpos⟩)
    case permReq =>
      rw [clockEdge_permReq hrst hph] at h
      cases hready : pins.preqReady <;> rw [hready] at h <;> cases h
      · exact .wait hrst (by simp [hph]) (by simp [hph]) (by simp [hph]) (by simp [hph])
      · exact .request hrst hph
    case permWait =>
      rw [clockEdge_permWait_elim hrst hph] at h
      rcases elim_next h with ⟨hno, rfl⟩ | ⟨v, hv, ht⟩
      · exact .wait hrst (by simp [hph]) (by simp [hph]) (by simp [hph]) (fun _ => hno)
      · rw [permWaitStep_next ht]
        exact .answer v hrst hph hv
    case finClr => rw [clockEdge_finClr hrst hph] at h; cases h; exact .wipe hrst hph
    case drain =>
      by_cases hrem : s.ctrl.rem = 0
      · rw [clockEdge_drain_end hrst hph hrem] at h; cases h; exact .drained hrst hph
      · rw [clockEdge_drain_word hrst hph hrem] at h
        rcases elim_next h with ⟨-, rfl⟩ | ⟨w, -, ht⟩
        · exact .wait hrst (by simp [hph]) (by simp [hph]) (by simp [hph]) (by simp [hph])
        · rw [dinStep_drain (dinStep_next ht) hph] at ht
          cases ht
          exact .discard hrst hph
    case resp =>
      rw [clockEdge_resp hrst hph] at h
      cases hready : pins.rspReady <;> rw [hready] at h <;> cases h
      · exact .wait hrst (by simp [hph]) (by simp [hph]) (by simp [hph]) (by simp [hph])
      · exact .respond hrst hph
    case dout =>
      rw [clockEdge_dout hrst hph] at h
      cases hready : pins.doutReady <;> rw [hready] at h
      · cases h
        exact .wait hrst (by simp [hph]) (by simp [hph]) (by simp [hph]) (by simp [hph])
      · exact .stream hrst hph h

end Edges

/-! ## What each micro-step leaves -/

/-- A micro-step that leaves the lanes `l` and the ports `q`, and does not go to PERM_REQ. -/
structure EdgeFrame (l : Lanes) (q : Ports) (t : State) : Prop where
  lanes : t.arch.lanes = l
  ports : t.ports = q
  phase : t.ctrl.phase ≠ .permReq

section Steps

variable {p : Params} {s t : State}

/-- The acceptance of a header leaves the lanes and the ports, and goes to no permutation (R142). -/
theorem idleStep_frame {h : Header} (hidle : idleStep p h s = .next t) :
    EdgeFrame s.arch.lanes s.ports t := by
  have herror : ∀ {c ph}, ph ≠ Phase.permReq → t = errorTo c ph (acceptHeader h s) →
      EdgeFrame s.arch.lanes s.ports t := by
    rintro c ph hne rfl
    exact ⟨setFault_lanes c s.arch, rfl, hne⟩
  cases hw : hdrWellFormed h with
  | false =>
    rw [idleStep_malformed hw] at hidle
    exact herror (by decide) (Host.Outcome.next.inj hidle).symm
  | true =>
    cases hop : hdrOp h with
    | start => rw [idleStep_start hw hop] at hidle; cases hidle; exact ⟨rfl, rfl, nofun⟩
    | absorb =>
      rw [idleStep_absorb hw hop] at hidle
      rcases acceptAbsorb_cases p (acceptHeader h s) with
        ⟨-, hr⟩ | ⟨-, -, hr⟩ | ⟨-, -, -, hr⟩ | ⟨-, -, -, hr⟩ <;> rw [hr] at hidle
      · exact herror (by decide) (Host.Outcome.next.inj hidle).symm
      · cases hidle
      · exact herror (by decide) (Host.Outcome.next.inj hidle).symm
      · cases hidle; exact ⟨rfl, rfl, nofun⟩
    | squeeze =>
      rw [idleStep_squeeze hw hop] at hidle
      rcases acceptSqueeze_cases p (acceptHeader h s) with
        ⟨-, hr⟩ | ⟨-, -, hr⟩ | ⟨-, -, -, hr⟩ | ⟨-, -, -, hr⟩ <;> rw [hr] at hidle
      · exact herror (by decide) (Host.Outcome.next.inj hidle).symm
      · cases hidle
      · exact herror (by decide) (Host.Outcome.next.inj hidle).symm
      · cases hidle; exact ⟨rfl, rfl, nofun⟩
    | finish => rw [idleStep_finish hw hop] at hidle; cases hidle; exact ⟨rfl, rfl, nofun⟩

theorem startClrStep_frame (p : Params) (s : State) :
    EdgeFrame zeroLanes s.ports (startClrStep p s) := by
  rcases startClrStep_cases p s with ⟨-, hr⟩ | ⟨-, -, hr⟩ | ⟨-, -, hr⟩ <;> rw [hr]
  · exact ⟨setFault_lanes _ _, rfl, nofun⟩
  · exact ⟨rfl, rfl, nofun⟩
  · exact ⟨rfl, rfl, nofun⟩

theorem startPatStep_frame {w : Nat} (ht : startPatStep p w s = .next t) :
    EdgeFrame s.arch.lanes s.ports t := by
  unfold startPatStep takeEntry at ht
  split at ht
  · cases ht; exact ⟨setFault_lanes _ _, rfl, nofun⟩
  · split at ht
    · cases ht
    · next a ha =>
      obtain ⟨-, rfl⟩ := patWrite_ok ha
      cases ht
      refine ⟨rfl, rfl, ?_⟩
      rw [nextEntry_ctrl]
      dsimp only
      split <;> decide

theorem absElemStep_frame (p : Params) (i : Fin WIDTH) (w : Nat) (s : State)
    (hph : s.ctrl.phase = .absElem) :
    EdgeFrame (addLane p s.arch.lanes i w) s.ports (absElemStep p i w s) := by
  unfold absElemStep absorbNext
  split
  · exact ⟨rfl, rfl, nofun⟩
  · exact ⟨rfl, rfl, by rw [countWord_ctrl, addElem_ctrl, hph]; decide⟩

theorem sqzElemStep_frame {i : Fin WIDTH} (hph : s.ctrl.phase = .sqzElem)
    (ht : sqzElemStep p i s = .next t) :
    EdgeFrame s.arch.lanes s.ports t := by
  unfold sqzElemStep at ht
  rw [takeElem_eq] at ht
  by_cases hroom : s.arch.outLen < p.outMax
  · rw [if_pos hroom] at ht
    cases ht
    unfold squeezeNext
    split
    · exact ⟨rfl, rfl, nofun⟩
    · refine ⟨rfl, rfl, ?_⟩
      show s.ctrl.phase ≠ .permReq
      rw [hph]; decide
  · rw [if_neg hroom] at ht; cases ht

theorem writeBack_frame (l : Lanes) (s : State) (hph : s.ctrl.phase = .permWait) :
    EdgeFrame l s.ports (writeBack l s) := by
  unfold writeBack
  cases s.ctrl.curOp
  · exact ⟨rfl, rfl, by rw [hph]; decide⟩
  · exact ⟨rfl, rfl, nofun⟩
  · exact ⟨rfl, rfl, nofun⟩
  · exact ⟨rfl, rfl, by rw [hph]; decide⟩

/-- RESP leaves the lanes and what the host has to send, and asks for nothing (R153). -/
theorem respStep_frame (s : State) :
    EdgeFrame s.arch.lanes
      { s.ports with rspOut := s.ports.rspOut ++
        [rspWord s.ctrl.curOp s.ctrl.pend (rspCount s.ctrl.curOp s.ctrl.pend s.arch)] }
      (respStep s) := by
  unfold respStep afterResponse
  split
  · exact ⟨rfl, rfl, nofun⟩
  · exact ⟨rfl, rfl, nofun⟩

/-- DOUT leaves the lanes and what the host has to send, and asks for nothing (R154). -/
theorem doutStep_frame (hph : s.ctrl.phase = .dout) (ht : doutStep p s = .next t) :
    ∃ sent, EdgeFrame s.arch.lanes { s.ports with doutOut := s.ports.doutOut ++ [sent] } t := by
  unfold doutStep at ht
  split at ht
  · cases ht
  · cases ht
    unfold afterElem
    split
    · exact ⟨_, rfl, rfl, nofun⟩
    · refine ⟨_, rfl, rfl, ?_⟩
      show s.ctrl.phase ≠ .permReq
      rw [hph]; decide

end Steps

/-! ## The host's queues and the requests -/

/-- An edge takes nothing from the host's queues by itself: `takeOffered` does (R61). A request is
recorded in PERM_REQ alone (R127, R130). -/
theorem EdgeTo.ports {p : Params} {pins : Pins p} {s t : State} (h : EdgeTo p pins s t) :
    t.ports.dinIn = s.ports.dinIn ∧ (s.ctrl.phase ≠ .permReq → t.ports.preqOut = s.ports.preqOut) := by
  have kept : t.ports = s.ports → t.ports.dinIn = s.ports.dinIn ∧
      (s.ctrl.phase ≠ .permReq → t.ports.preqOut = s.ports.preqOut) := fun hports => by
    rw [hports]; exact ⟨rfl, fun _ => rfl⟩
  cases h with
  | reset => exact ⟨rfl, fun _ => rfl⟩
  | accept h _ _ hidle => exact kept (idleStep_frame hidle).ports
  | clear => exact kept (startClrStep_frame p s).ports
  | entry w _ _ ht => exact kept (startPatStep_frame ht).ports
  | tag => exact ⟨rfl, fun _ => rfl⟩
  | word w i _ hph => exact kept (absElemStep_frame p i w.toNat s hph).ports
  | elem i _ hph ht => exact kept (sqzElemStep_frame hph ht).ports
  | ask => exact ⟨rfl, fun _ => rfl⟩
  | request _ hph => exact ⟨rfl, fun hne => absurd hph hne⟩
  | answer v _ hph =>
    rw [(writeBack_frame (unpackLanes p v) (setUnit none s) hph).ports]
    exact ⟨rfl, fun _ => rfl⟩
  | wipe => exact ⟨rfl, fun _ => rfl⟩
  | drained => exact ⟨rfl, fun _ => rfl⟩
  | discard => exact ⟨rfl, fun _ => rfl⟩
  | respond => rw [(respStep_frame s).ports]; exact ⟨rfl, fun _ => rfl⟩
  | stream _ hph ht =>
    obtain ⟨sent, frame⟩ := doutStep_frame hph ht
    rw [frame.ports]
    exact ⟨rfl, fun _ => rfl⟩
  | wait => exact ⟨rfl, fun _ => rfl⟩

/-- PERM_REQ is entered only by a grant, from the phase that asks (R128, R130). -/
theorem EdgeTo.enters_permReq {p : Params} {pins : Pins p} {s t : State} (h : EdgeTo p pins s t)
    (ht : t.ctrl.phase = .permReq) (hs : s.ctrl.phase ≠ .permReq) :
    s.ctrl.phase = .absElem ∧ s.arch.absorbPos = sentinel ∨
      s.ctrl.phase = .sqzElem ∧ s.arch.squeezePos = sentinel := by
  cases h with
  | reset => cases ht
  | accept h _ _ hidle => exact absurd ht (idleStep_frame hidle).phase
  | clear => exact absurd ht (startClrStep_frame p s).phase
  | entry w _ _ hstep => exact absurd ht (startPatStep_frame hstep).phase
  | tag => cases ht
  | word w i _ hph => exact absurd ht (absElemStep_frame p i w.toNat s hph).phase
  | elem i _ hph hstep => exact absurd ht (sqzElemStep_frame hph hstep).phase
  | ask _ hask => exact hask
  | request => cases ht
  | answer v _ hph => exact absurd ht (writeBack_frame (unpackLanes p v) (setUnit none s) hph).phase
  | wipe => cases ht
  | drained => cases ht
  | discard _ hph => exact absurd (hph.symm.trans ht) (by decide)
  | respond => exact absurd ht (respStep_frame s).phase
  | stream _ hph hstep =>
    obtain ⟨sent, frame⟩ := doutStep_frame hph hstep
    exact absurd ht frame.phase
  | wait => exact absurd ht hs

/-! ## The mux -/

/-- Settles O46: HOLD in every case but the five of R134, each of which is the case's own effect. -/
theorem lanesChangeThroughTheMux : Obligations.LanesChangeThroughTheMux := by
  unfold Obligations.LanesChangeThroughTheMux
  intro pins s t hinv hedge
  have hold : stSel Config.hw pins s = .hold → t.arch.lanes = s.arch.lanes →
      t.arch.lanes = muxLanes Config.hw (stSel Config.hw pins s) s.arch.absorbPos
        (pins.din.getD 0).toNat (unpackLanes Config.hw (pins.prsp.getD 0)) s.arch.lanes :=
    fun hsel hlanes => by rw [hsel]; exact hlanes
  have hinvphase := hinv.phase
  cases edgeTo_of_next hedge with
  | reset hrst => rw [stSel, hrst]; rfl
  | accept h hrst hph hidle => exact hold (by simp [stSel, hrst, hph]) (idleStep_frame hidle).lanes
  | clear hrst hph =>
    have hsel : stSel Config.hw pins s = .clear := by simp [stSel, hrst, hph]
    rw [hsel]
    exact (startClrStep_frame Config.hw s).lanes
  | entry w hrst hph ht => exact hold (by simp [stSel, hrst, hph]) (startPatStep_frame ht).lanes
  | tag w hrst hph hdin =>
    rw [PhaseInv, hph] at hinvphase
    obtain ⟨hload, -⟩ := hinvphase
    have hsel : stSel Config.hw pins s = .tag := by
      simp [stSel, hrst, hph, transfers, outputs, dinReady, hdin, hload.pend]
    rw [hsel, hdin]
    rfl
  | word w i hrst hph hdin hi =>
    have hlt : s.arch.absorbPos.val < 3 := by
      rcases rateLane_cases s.arch.absorbPos with ⟨_, -, -, hlt, -⟩ | ⟨hnone, -⟩
      · exact hlt
      · rw [hnone] at hi; cases hi
    have hsel : stSel Config.hw pins s = .add := by
      simp [stSel, hrst, hph, transfers, outputs, dinReady, hdin, hlt]
    rw [hsel, hdin]
    simp only [muxLanes, hi]
    exact (absElemStep_frame Config.hw i w.toNat s hph).lanes
  | elem i hrst hph ht => exact hold (by simp [stSel, hrst, hph]) (sqzElemStep_frame hph ht).lanes
  | ask hrst hask =>
    refine hold ?_ rfl
    rcases hask with ⟨hph, hpos⟩ | ⟨hph, hpos⟩
    · simp [stSel, hrst, hph, transfers, outputs, dinReady, hpos]
    · simp [stSel, hrst, hph]
  | request hrst hph => exact hold (by simp [stSel, hrst, hph]) rfl
  | answer v hrst hph hprsp =>
    have hsel : stSel Config.hw pins s = .perm := by
      simp [stSel, hrst, hph, transfers, outputs, prspReady, hprsp]
    rw [hsel, hprsp]
    exact (writeBack_frame _ (setUnit none s) hph).lanes
  | wipe hrst hph =>
    have hsel : stSel Config.hw pins s = .clear := by simp [stSel, hrst, hph]
    rw [hsel]
    rfl
  | drained hrst hph => exact hold (by simp [stSel, hrst, hph]) rfl
  | discard hrst hph => exact hold (by simp [stSel, hrst, hph]) rfl
  | respond hrst hph => exact hold (by simp [stSel, hrst, hph]) (respStep_frame s).lanes
  | stream hrst hph ht =>
    obtain ⟨sent, frame⟩ := doutStep_frame hph ht
    exact hold (by simp [stSel, hrst, hph]) frame.lanes
  | wait hrst hclr hfin hdin hprsp =>
    refine hold ?_ rfl
    cases hph : s.ctrl.phase
    case startClr => exact absurd hph hclr
    case finClr => exact absurd hph hfin
    case startTag => simp [stSel, hrst, hph, transfers, hdin (.inl hph)]
    case absElem => simp [stSel, hrst, hph, transfers, hdin (.inr hph)]
    case permWait => simp [stSel, hrst, hph, transfers, hprsp hph]
    all_goals simp [stSel, hrst, hph]

/-! ## The arbiter -/

theorem eq_sentinel_iff (pos : Cursor) : pos = sentinel ↔ pos.val = 3 := by
  rw [Fin.ext_iff, sentinel_val]

theorem absReq_iff (a : Arch) (c : Ctrl) :
    absReq a c = true ↔ c.phase = .absElem ∧ a.absorbPos.val = 3 := by
  rw [absReq, Bool.and_eq_true, beq_iff_eq, beq_iff_eq, eq_sentinel_iff]

theorem sqzReq_iff (a : Arch) (c : Ctrl) :
    sqzReq a c = true ↔ c.phase = .sqzElem ∧ a.squeezePos.val = 3 := by
  rw [sqzReq, Bool.and_eq_true, beq_iff_eq, beq_iff_eq, eq_sentinel_iff]

/-- Settles O43: the two requests belong to different phases, so the grant is the one that is raised. -/
theorem arbiterGrantsOneRequester : Obligations.ArbiterGrantsOneRequester := by
  unfold Obligations.ArbiterGrantsOneRequester
  intro s pins
  have exclusive : absReq s.arch s.ctrl = true → ¬sqzReq s.arch s.ctrl = true := fun habs hsqz => by
    rw [absReq_iff] at habs
    rw [sqzReq_iff] at hsqz
    exact absurd (habs.1.symm.trans hsqz.1) (by decide)
  rw [← absReq_iff, ← sqzReq_iff]
  refine ⟨?_, ?_, ?_, fun hrst hgrant => ?_⟩
  · cases habs : absReq s.arch s.ctrl
    · rfl
    · rw [Bool.true_and]; exact Bool.eq_false_iff.2 (exclusive habs)
  · unfold grant
    by_cases hsqz : sqzReq s.arch s.ctrl = true
    · simp only [hsqz, if_true]
      exact ⟨nofun, fun habs => absurd hsqz (exclusive habs)⟩
    · by_cases habs : absReq s.arch s.ctrl = true <;> simp [hsqz, habs]
  · unfold grant
    by_cases hsqz : sqzReq s.arch s.ctrl = true
    · simp [hsqz]
    · by_cases habs : absReq s.arch s.ctrl = true <;> simp [hsqz, habs]
  · by_cases hsqz : sqzReq s.arch s.ctrl = true
    · obtain ⟨hph, hpos⟩ := (sqzReq_iff _ _).1 hsqz
      exact clockEdge_sqzElem_rate hrst hph ((eq_sentinel_iff _).2 hpos)
    · have habs : absReq s.arch s.ctrl = true := by
        by_contra hno
        exact hgrant (by simp [grant, hsqz, hno])
      obtain ⟨hph, hpos⟩ := (absReq_iff _ _).1 habs
      exact clockEdge_absElem_rate hrst hph ((eq_sentinel_iff _).2 hpos)

/-! ## Waits and held offers -/

/-- A cursor below RATE addresses a lane (R19, R42). -/
theorem exists_rateLane {pos : Cursor} (hlt : pos.val < 3) : ∃ i, rateLane pos = some i := by
  rcases rateLane_cases pos with ⟨i, hi, -⟩ | ⟨-, hs⟩
  · exact ⟨i, hi⟩
  · rw [hs] at hlt; exact absurd hlt (by decide)

/-- Settles O42: in each waiting phase the edge is the micro-step of an offer that is not there. -/
theorem waitsAreNotLiftedByTime : Obligations.WaitsAreNotLiftedByTime := by
  unfold Obligations.WaitsAreNotLiftedByTime
  intro pins s hrst
  refine ⟨fun hph hno => ?_, fun hph hno => ?_, fun hph hno => ?_, fun hph hno => ?_, fun hph hno => ?_,
    fun hph hno => ?_⟩
  · rw [clockEdge_idle hrst hph, hno]; rfl
  · rcases hph with hph | hph | ⟨hph, hlt⟩ | ⟨hph, hpos⟩
    · rw [clockEdge_startPat hrst hph, hno]; rfl
    · rw [clockEdge_startTag hrst hph, hno]; rfl
    · obtain ⟨i, hi⟩ := exists_rateLane hlt
      rw [clockEdge_absElem_lane hrst hph hi, hno]; rfl
    · rw [clockEdge_drain_word hrst hph (Nat.pos_iff_ne_zero.1 hpos), hno]; rfl
  · rw [clockEdge_permReq hrst hph, hno]; rfl
  · rw [clockEdge_permWait_elim hrst hph, hno]; rfl
  · rw [clockEdge_resp hrst hph, hno]; rfl
  · rw [clockEdge_dout hrst hph, hno]; rfl

/-- Settles O41: an offer stands in a phase that its channel's silence does not lift. -/
theorem offersAreHeldUntilTransfer : Obligations.OffersAreHeldUntilTransfer := by
  unfold Obligations.OffersAreHeldUntilTransfer
  intro pins s t hrst hedge
  obtain ⟨-, -, hpreq, -, hresp, hdout⟩ := waitsAreNotLiftedByTime pins s hrst
  have stays : clockEdge Config.hw pins s = .next s → t = s := fun h =>
    (Host.Outcome.next.inj (h.symm.trans hedge)).symm
  refine ⟨fun w hw hno => ?_, fun w hw hno => ?_, fun w hw hno => ?_⟩
  · have hph := (rspOffer_isSome_iff s.arch s.ctrl).1 (Option.isSome_of_eq_some hw)
    rw [stays (hresp hph hno)]; exact hw
  · have hph := ((doutOffer_isSome_iff Config.hw s.arch s.ctrl).1 (Option.isSome_of_eq_some hw)).1
    rw [stays (hdout hph hno)]; exact hw
  · have hph := (preqOffer_isSome_iff Config.hw s.arch s.ctrl).1 (Option.isSome_of_eq_some hw)
    rw [stays (hpreq hph hno)]; exact hw

/-! ## Reset, the answer's contract, what the outputs hide -/

/-- Settles O37: reset wins over every phase, and `rst` masks every valid and ready output. -/
theorem resetEdgeWinsInEveryPhase : Obligations.ResetEdgeWinsInEveryPhase := by
  unfold Obligations.ResetEdgeWinsInEveryPhase
  intro pins s hrst
  refine ⟨clockEdge_reset hrst, ?_, rfl, rfl, rfl, rfl, rfl, rfl⟩
  simp [transfers, outputs, hrst]

/-- Settles O45: the unpacked answer has the lane that is not below `P`. -/
theorem nonCanonicalAnswerIsRefused : Obligations.NonCanonicalAnswerIsRefused := by
  unfold Obligations.NonCanonicalAnswerIsRefused
  intro p pins s v i hp hrst hprsp hph hbig
  have hbad : canonicalLanes p (unpackLanes p v) = false := by
    refine Bool.eq_false_iff.2 fun hc => ?_
    have hlane := (canonicalLanes_iff hp _).1 hc i
    rw [unpackLanes_getElem] at hlane
    omega
  rw [clockEdge_permWait hrst hprsp hph, permWaitStep, hbad]
  rfl

/-- Settles O48: no output but PREQ reads a lane, and the cursors are read in the element phases. -/
theorem hostOutputsHideTheLanes : Obligations.HostOutputsHideTheLanes := by
  unfold Obligations.HostOutputsHideTheLanes
  intro rst s l apos spos
  refine ⟨rfl, fun hph => ?_⟩
  simp only [outputs, dinReady, rspOffer, doutOffer, preqOffer, hph]

/-! ## The widths of the data ports -/

/-- A word that the bus does not carry keeps the command from being taken whole (R60). -/
theorem fetch_edge_of_wide_word {p : Params} {s : State} {h : Header} {more : List Header} {w : Nat}
    (hcmd : s.ports.cmdIn = h :: more) (hmem : w ∈ s.ports.dinIn.take (paylen h))
    (hwide : 2 ^ fieldBits p ≤ w) : fetch p s = .edge := by
  rcases fetch_cases p s with hf | ⟨h', more', -, -, hcmd', hp, -⟩
  · exact hf
  · obtain ⟨rfl, -⟩ := List.cons.inj (hcmd.symm.trans hcmd')
    exact absurd (((presented_iff p _ _).1 hp).2 w hmem) (Nat.not_lt.2 hwide)

/-- Where nothing is on DIN, the edge takes nothing from the host's payload words (R61). -/
theorem cycle_dinIn_of_no_word {p : Params} {s t : State} (hno : (envPins p s).din = none)
    (h : cycle p s = .next t) : t.ports.dinIn = s.ports.dinIn := by
  unfold cycle at h
  cases hedge : clockEdge p (envPins p s) s <;> rw [hedge] at h <;> cases h
  next u =>
  have hkept := (edgeTo_of_next hedge).ports.1
  simp [takeOffered, transfers, hno, hkept]

/-- DOUT offers the element of OUT at `dout_idx`, marked at the last index (R72, R154). -/
theorem doutOffer_eq {p : Params} {a : Arch} {c : Ctrl} (hph : c.phase = .dout)
    (hidx : c.doutIdx < p.outMax) :
    doutOffer p a c =
      some (BitVec.ofNat (fieldBits p) (Store.read a.out c.doutIdx), c.doutIdx == a.outLen - 1) := by
  have hread : outRead p a c.doutIdx = .ok (Store.read a.out c.doutIdx) := if_pos hidx
  simp only [doutOffer, hph, hread]

/-- Settles O40: each clause by whether the word fits FIELD_BITS bits; an element of OUT is canonical, so
it does. -/
theorem dataPortsCarryFieldBits : Obligations.DataPortsCarryFieldBits := by
  unfold Obligations.DataPortsCarryFieldBits
  intro s
  refine ⟨fun w rest hdin => ⟨fun hw => ?_, fun hw => ?_⟩, fun h more w hcmd hmem hwide => ?_,
    fun hinv hph => ?_⟩
  · have hpin : (envPins Config.hw s).din = some (BitVec.ofNat (fieldBits Config.hw) w) := by
      simp only [envPins, hdin, List.head?_cons, Option.bind_some, busWord_of_lt hw]
    rw [hpin, Option.map_some, BitVec.toNat_ofNat, Nat.mod_eq_of_lt hw]
  · have hno : (envPins Config.hw s).din = none := by
      simp only [envPins, hdin, List.head?_cons, Option.bind_some, busWord_of_le hw]
    exact ⟨hno, fun t ht => cycle_dinIn_of_no_word hno ht⟩
  · rw [step, stepBy, fetch_edge_of_wide_word hcmd hmem hwide]
  · have hidx := doutIdx_lt_outMax hinv hph
    have hphase := hinv.phase
    rw [PhaseInv, hph] at hphase
    obtain ⟨harch, -, -, -, hlt⟩ := hphase
    have helem : Store.read s.arch.out s.ctrl.doutIdx < 2 ^ fieldBits Config.hw :=
      lt_two_pow_bitlength_of_le (Nat.le_sub_one_of_lt (harch.out_canonical _))
    have hlast : (s.ctrl.doutIdx == s.arch.outLen - 1) =
        decide (s.ctrl.doutIdx + 1 = s.arch.outLen) := by
      rw [Bool.eq_iff_iff, beq_iff_eq, decide_eq_true_iff]; omega
    have hoffer : (outputs Config.hw false s).dout = _ := doutOffer_eq hph hidx
    rw [hoffer, Option.map_some, BitVec.toNat_ofNat, Nat.mod_eq_of_lt helem, hlast]

end Sys2Proof.Proofs
end

section
/-! The commands one by one: the response word (R70), the contract of R67, and what START, ABSORB, SQUEEZE
and FINISH answer, change and leave (R90 to R123), with the element loops on plain numbers (R101, R111). -/

namespace Sys2Proof.Proofs

open Sys2Proof Sys2Proof.Machine Sys2Proof.Laws

/-! ## The response word -/

theorem toNat_append_add {m n : Nat} (x : BitVec m) (y : BitVec n) :
    (x ++ y).toNat = x.toNat * 2 ^ n + y.toNat := by
  rw [BitVec.toNat_append, ← Nat.shiftLeft_add_eq_or_of_lt y.isLt, Nat.shiftLeft_eq]

/-- Settles O7: each field stands above the widths of the fields below it. -/
theorem responseWordLayout : Obligations.ResponseWordLayout := by
  unfold Obligations.ResponseWordLayout
  intro op st n hn
  simp only [rspWord, toNat_append_add, BitVec.toNat_ofNat, Nat.mod_eq_of_lt hn, Nat.zero_mod]
  omega

/-- The response word as a number on 32 bits (R70). -/
theorem rspWord_eq_ofNat (op : Op) (st : Status) {n : Nat} (hn : n < 65536) :
    rspWord op st n = BitVec.ofNat 32 (st.code.toNat + n * 2 ^ 8 + op.code.toNat * 2 ^ 24) := by
  have layout := responseWordLayout op st n hn
  have hlt := (rspWord op st n).isLt
  apply BitVec.eq_of_toNat_eq
  rw [BitVec.toNat_ofNat, ← layout, Nat.mod_eq_of_lt hlt]

/-- The count is 0 but for a SQUEEZE that succeeds (R70). -/
theorem rspCount_of_error (op : Op) {st : Status} (hst : st ≠ .ok) (a : Arch) :
    rspCount op st a = 0 := by
  unfold rspCount
  split
  · exact absurd rfl hst
  · rfl

theorem rspCount_of_ne_squeeze {op : Op} (hop : op ≠ .squeeze) (st : Status) (a : Arch) :
    rspCount op st a = 0 := by
  unfold rspCount
  split
  · exact absurd rfl hop
  · rfl

/-! ## The host's side of the ports -/

theorem inputsKept_refl (q : Ports) : InputsKept q q := ⟨rfl, rfl, rfl, rfl, rfl, rfl, rfl, rfl⟩

/-- Sending and recording leave the host's side (R61). -/
theorem inputsKept_sent (q : Ports) (rsp : List RspWord) (dout : List (Nat × Bool))
    (preq : List Lanes) :
    InputsKept q { q with rspOut := rsp, doutOut := dout, preqOut := preq } := inputsKept_refl q

/-! ## The contract of tag and message words -/

theorem canonicalWord_false_iff {p : Params} (hp : p.Valid) (w : Nat) :
    canonicalWord p w = false ↔ p.modulus ≤ w := by
  rw [← Bool.not_eq_true, canonicalWord_iff hp, Nat.not_lt]

theorem all_canonical {p : Params} (hp : p.Valid) {ws : List Nat} (h : ∀ x ∈ ws, x < p.modulus) :
    ws.all (canonicalWord p) = true :=
  List.all_eq_true.2 fun x hx => (canonicalWord_iff hp x).2 (h x hx)

/-- Settles O33: the contract is tested before anything else. -/
theorem nonCanonicalWordsAreRefused : Obligations.NonCanonicalWordsAreRefused := by
  unfold Obligations.NonCanonicalWordsAreRefused
  intro s
  refine ⟨fun pattern tag htag => ?_, fun input x hx hbig => ?_⟩
  · have hc : canonicalWord Config.hw tag = false := (canonicalWord_false_iff hw_valid tag).2 htag
    show startWith Config.hw pattern tag s = _
    rw [startWith_eq, hc]
    rfl
  · have hc : input.all (canonicalWord Config.hw) = false :=
      List.all_eq_false.2 ⟨x, hx, by rw [(canonicalWord_false_iff hw_valid x).2 hbig]; decide⟩
    show absorbWith Config.hw input s = _
    rw [absorbWith, hc]
    rfl

/-! ## What a command that answers has done -/

section Answers

variable {p : Params} {s t : State}

/-- A START that answers: an error raised on the cleared engine, or the load (R90 to R92). -/
theorem startWith_next {pattern : List Nat} {tag : Nat} (h : startWith p pattern tag s = .next t) :
    (∃ c wr, c ≠ .ok ∧ (wr = 0 ∨ wr = firstIllegal pattern) ∧
      t = raiseError .start (BitVec.ofNat 16 pattern.length) c
        { startClear s with ctrl := { (startClear s).ctrl with wrIdx := wr } }) ∨
      (pattern.length ≤ p.patternMax ∧ pattern.all legalEntry = true ∧
        t = finishCommand .start (BitVec.ofNat 16 pattern.length) .ok
          (startLoad pattern tag (startClear s))) := by
  rcases startWith_cases p pattern tag s with
    ⟨-, hr⟩ | ⟨-, -, hr⟩ | ⟨-, -, -, hr⟩ | ⟨-, hlen, hall, hr⟩ <;> rw [hr] at h <;> cases h
  · exact .inl ⟨.capacity, 0, by decide, .inl rfl, rfl⟩
  · exact .inl ⟨.badPattern, _, by decide, .inr rfl, rfl⟩
  · exact .inr ⟨hlen, hall, rfl⟩

/-- An ABSORB that answers: an error raised on the engine as it stands, or the element loop, in an entry
that is the length (R100, R102). -/
theorem absorbWith_next {input : List Nat} (h : absorbWith p input s = .next t) :
    (∃ c, c ≠ .ok ∧ t = raiseError .absorb (BitVec.ofNat 16 input.length) c s) ∨
      (s.arch.ioCount ≠ s.arch.patternLen ∧ Store.read s.arch.pat s.arch.ioCount = input.length ∧
        t = finishCommand .absorb (BitVec.ofNat 16 input.length) .ok
          (absorbDone (absorbElems p input s))) := by
  rcases absorbWith_cases p input s with
    ⟨-, hr⟩ | ⟨-, -, hr⟩ | ⟨-, -, -, hr⟩ | ⟨-, -, -, -, hr⟩ | ⟨-, he, -, hn, hr⟩ <;>
    rw [hr] at h <;> cases h
  · exact .inl ⟨.patternExhausted, by decide, rfl⟩
  · exact .inl ⟨.patternMismatch, by decide, rfl⟩
  · exact .inr ⟨he, hn, rfl⟩

/-- A SQUEEZE that answers: an error raised on the engine as it stands, or the element loop, for which OUT
has the room (R110, R112). -/
theorem squeezeWith_next (h : squeezeWith p s = .next t) :
    (∃ c, c ≠ .ok ∧ t = raiseError .squeeze 0 c s) ∨
      (s.arch.ioCount ≠ s.arch.patternLen ∧
        s.arch.outLen + Store.read s.arch.pat s.arch.ioCount ≤ p.outMax ∧
        ∃ u, squeezeElems p (Store.read s.arch.pat s.arch.ioCount) s = .ok u ∧ t = squeezeEnd 0 u) := by
  rcases squeezeWith_cases p s with
    ⟨-, hr⟩ | ⟨-, -, hr⟩ | ⟨-, -, -, hr⟩ | ⟨he, -, hroom, u, hu, hr⟩ <;> rw [hr] at h <;> cases h
  · exact .inl ⟨.patternExhausted, by decide, rfl⟩
  · exact .inl ⟨.capacity, by decide, rfl⟩
  · exact .inr ⟨he, hroom, u, hu, rfl⟩

end Answers

/-- The element loop of SQUEEZE leaves the pattern, its cursor and `fault`, counts the elements in `out_len`
and only adds requests to the ports (R111). -/
structure SqueezeFrame (n : Nat) (s u : State) : Prop where
  outLen : u.arch.outLen = s.arch.outLen + n
  pat : u.arch.pat = s.arch.pat
  patternLen : u.arch.patternLen = s.arch.patternLen
  ioCount : u.arch.ioCount = s.arch.ioCount
  fault : u.arch.fault = s.arch.fault
  ctrl : u.ctrl = s.ctrl
  ports : ∃ asked, u.ports = { s.ports with preqOut := s.ports.preqOut ++ asked }

theorem squeezeElems_frame_of_ok {p : Params} {n : Nat} {s u : State}
    (hu : squeezeElems p n s = .ok u) (hroom : s.arch.outLen + n ≤ p.outMax) : SqueezeFrame n s u := by
  obtain ⟨l, apos, spos, o, asked, h⟩ := squeezeElems_frame p n s hroom
  obtain rfl := Except.ok.inj (h.symm.trans hu)
  exact ⟨rfl, rfl, rfl, rfl, rfl, rfl, asked, rfl⟩

/-- The element loop of ABSORB touches the lanes, its cursor and the requests (R101). -/
structure AbsorbFrame (s u : State) : Prop where
  pat : u.arch.pat = s.arch.pat
  patternLen : u.arch.patternLen = s.arch.patternLen
  ioCount : u.arch.ioCount = s.arch.ioCount
  squeezePos : u.arch.squeezePos = s.arch.squeezePos
  out : u.arch.out = s.arch.out
  outLen : u.arch.outLen = s.arch.outLen
  fault : u.arch.fault = s.arch.fault
  ctrl : u.ctrl = s.ctrl
  ports : ∃ asked, u.ports = { s.ports with preqOut := s.ports.preqOut ++ asked }

theorem absorbElems_absorbFrame (p : Params) (xs : List Nat) (s : State) :
    AbsorbFrame s (absorbElems p xs s) := by
  obtain ⟨l, pos, asked, h⟩ := absorbElems_frame p xs s
  rw [h]
  exact ⟨rfl, rfl, rfl, rfl, rfl, rfl, rfl, rfl, asked, rfl⟩

/-! ## START -/

/-- A legal pattern, by its bounds (R67). -/
theorem all_legalEntry_iff (pattern : List Nat) :
    pattern.all legalEntry = true ↔ ∀ v ∈ pattern, 1 ≤ v ∧ v ≤ 65535 := by
  simp only [List.all_eq_true, legalEntry_iff]

/-- A pattern loaded on the empty store reads as the list (R90). -/
theorem read_loadPattern_nil (pattern : List Nat) (i : Nat) :
    Store.read (loadPattern pattern 0 []) i = pattern.getD i 0 := by
  rw [read_loadPattern _ _ _ wf_nil]
  split
  · rw [Nat.sub_zero]
  · next h => rw [List.getD_eq_default _ _ (by omega), read_nil]

/-- Settles O8: START on a legal pattern that fits is its load on the cleared engine. -/
theorem startLoadsPatternAndTag : Obligations.StartLoadsPatternAndTag := by
  unfold Obligations.StartLoadsPatternAndTag
  intro pattern tag s htag hmax hlegal
  have hall : pattern.all legalEntry = true :=
    (all_legalEntry_iff pattern).2 fun v hv => ⟨(hlegal v hv).1, Nat.le_of_lt_succ (hlegal v hv).2⟩
  have hload : startOn Config.hw pattern tag (startClear s) =
      finishCommand .start (BitVec.ofNat 16 pattern.length) .ok
        (startLoad pattern tag (startClear s)) := by
    rw [startOn, if_neg (Nat.not_lt.2 hmax), hall]
    rfl
  refine ⟨_, (exec_start_of_canonical htag pattern s).trans (congrArg _ hload), ?_⟩
  have response : rspWord .start .ok 0 = 0x00000000#32 := by decide
  exact ⟨tagLanes_zeroLanes tag, read_loadPattern_nil pattern, rfl, rfl, rfl, rfl, rfl, rfl, rfl, rfl,
    rfl, congrArg (fun w => s.ports.rspOut ++ [w]) response, rfl, rfl, inputsKept_refl s.ports⟩

/-! ## Errors of ABSORB and SQUEEZE -/

theorem squeezeWith_exhausted {p : Params} {s : State} (he : s.arch.ioCount = s.arch.patternLen) :
    squeezeWith p s = .next (raiseError .squeeze 0 .patternExhausted s) := if_pos he

/-- An error changes `fault`, and the ports by its response word (R70, R180, R181). -/
theorem raiseError_changes (op : Op) (len : BitVec LEN_BITS) {c : Status} (hc : c ≠ .ok) (s : State)
    {w : RspWord} (hw : rspWord op c 0 = w) :
    (raiseError op len c s).arch = { s.arch with fault := if s.arch.fault = .ok then c else s.arch.fault } ∧
      (raiseError op len c s).ports = { s.ports with rspOut := s.ports.rspOut ++ [w] } := by
  rw [raiseError_arch, raiseError_ports, rspCount_of_error op hc, hw]
  exact ⟨setFault_eq c s.arch, rfl⟩

/-- Settles O15: each condition is the branch of its error. -/
theorem absorbErrorsChangeOnlyFault : Obligations.AbsorbErrorsChangeOnlyFault := by
  unfold Obligations.AbsorbErrorsChangeOnlyFault
  intro input s hinput
  have hall := all_canonical hw_valid hinput
  refine ⟨fun he => ?_, fun he hi hn => ?_⟩
  · have hrun := absorbWith_exhausted Config.hw input he
    rw [hall] at hrun
    exact ⟨_, hrun, raiseError_changes _ _ (by decide) s (by decide)⟩
  · have hrun := absorbWith_mismatch he hi hn
    rw [hall] at hrun
    exact ⟨_, hrun, raiseError_changes _ _ (by decide) s (by decide)⟩

/-- Settles O19: each condition is the branch of its error; with the exact sum the loop has the room. -/
theorem squeezeErrorsChangeOnlyFault : Obligations.SqueezeErrorsChangeOnlyFault := by
  unfold Obligations.SqueezeErrorsChangeOnlyFault
  intro s
  refine ⟨fun he => ?_, fun he hi hn => ?_, fun he hi hn => ?_⟩
  · exact ⟨_, squeezeWith_exhausted (p := Config.hw) he,
      raiseError_changes _ _ (by decide) s (by decide)⟩
  · exact ⟨_, squeezeWith_full (p := Config.hw) he hi hn,
      raiseError_changes _ _ (by decide) s (by decide)⟩
  · obtain ⟨u, hu, hrun⟩ := squeezeWith_of_room (p := Config.hw) he hi hn.le
    exact ⟨_, hrun, rfl, (squeezeElems_frame_of_ok hu hn.le).outLen.trans hn⟩

/-! ## FINISH -/

/-- Settles O24: FINISH is `clear_all` and its response. -/
theorem finishWipesTheEngine : Obligations.FinishWipesTheEngine := by
  unfold Obligations.FinishWipesTheEngine
  intro s
  have response : rspWord .finish .ok 0 = 0x03000000#32 := by decide
  exact ⟨finishCommand .finish 0 .ok { s with arch := clearAll s.arch }, rfl, rfl, rfl, rfl, rfl, rfl,
    rfl, rfl, rfl, rfl, rfl, rfl, rfl, congrArg (fun w => s.ports.rspOut ++ [w]) response, rfl, rfl,
    inputsKept_refl s.ports⟩

/-- `set_fault` changes nothing but `fault` (R180). -/
theorem setFault_arch_eq (c : Status) (a : Arch) :
    setFault c a = { a with fault := (setFault c a).fault } := by
  rw [setFault_eq]

/-- Settles O25: the finished state has an empty pattern, on which ABSORB and SQUEEZE are exhausted. -/
theorem finishedEngineIsExhausted : Obligations.FinishedEngineIsExhausted := by
  unfold Obligations.FinishedEngineIsExhausted
  intro s t ht
  obtain rfl : finishCommand .finish 0 .ok { s with arch := clearAll s.arch } = t :=
    Host.Outcome.next.inj ht
  refine ⟨rfl, ⟨_, rfl, rfl⟩, ?_, fun input hinput => ?_⟩
  · have hrun := squeezeWith_exhausted (p := Config.hw)
      (s := finishCommand .finish 0 .ok { s with arch := clearAll s.arch }) rfl
    exact ⟨_, hrun, rfl, setFault_arch_eq _ _⟩
  · have hall := all_canonical hw_valid hinput
    have hrun := absorbWith_exhausted Config.hw input
      (s := finishCommand .finish 0 .ok { s with arch := clearAll s.arch }) rfl
    rw [hall] at hrun
    exact ⟨_, hrun, rfl, setFault_arch_eq _ _⟩

end Sys2Proof.Proofs
end

section
/-! The element loops on plain numbers (R101, R111): `absorbRef` and `squeezeRef` run beside the loops of
the machine, and the statements about what a successful ABSORB or SQUEEZE computes. -/

namespace Sys2Proof.Proofs

open Sys2Proof Sys2Proof.Machine Sys2Proof.Laws

/-! ## ABSORB -/

/-- ADD by the number of its lane (R101). -/
theorem addLane_eq_setIfInBounds (p : Params) (l : Lanes) {i : Fin WIDTH} {n : Nat} (hi : i.val = n)
    (x : Nat) :
    addLane p l i x = l.setIfInBounds n ((l.toList.getD n 0 + x) % p.modulus) := by
  rw [toList_getD_eq_getElem l hi]
  subst hi
  ext j hj
  simp [addLane, fadd, Vector.getElem_set, Vector.getElem_setIfInBounds]

/-- The loop of the machine and the loop on numbers, from the same lanes, cursor and requests, end with
the same (R101, R127). -/
theorem absorbRef_eq (p : Params) (xs : List Nat) {s : State} {old asked : List Lanes}
    (hreq : s.ports.preqOut = old ++ asked) :
    absorbRef p xs (s.arch.lanes, s.arch.absorbPos.val, asked) =
      ((absorbElems p xs s).arch.lanes, (absorbElems p xs s).arch.absorbPos.val,
        (absorbElems p xs s).ports.preqOut.drop old.length) := by
  induction xs generalizing s asked with
  | nil => simp [absorbRef, absorbElems, hreq]
  | cons x xs ih =>
    rw [absorbElems]
    rcases absorbElem_step p x s with ⟨i, hlt, hi, hstep, hpos⟩ | ⟨hrate, hstep, hpos⟩
    · have hne : s.arch.absorbPos.val ≠ RATE := by simp only [RATE]; omega
      rw [← ih (s := absorbElem p x s) (asked := asked) (by rw [hstep]; exact hreq), hpos, absorbRef,
        if_neg hne, ← addLane_eq_setIfInBounds p _ hi, hstep]
      rfl
    · rw [← ih (s := absorbElem p x s) (asked := asked ++ [s.arch.lanes])
          (by rw [hstep, addElem_ports, permuteForAbsorb_ports, hreq, List.append_assoc]),
        hpos, absorbRef, if_pos hrate, hstep]
      rfl

/-- Settles O12: the checks pass, and the loop is the loop on numbers. -/
theorem absorbRunsTheElementLoop : Obligations.AbsorbRunsTheElementLoop := by
  unfold Obligations.AbsorbRunsTheElementLoop
  intro input s hinput hne hi hn
  have hrun := absorbWith_match hne hi hn
  rw [all_canonical hw_valid hinput] at hrun
  have href := absorbRef_eq Config.hw input (s := s) (old := s.ports.preqOut) (asked := [])
    (List.append_nil _).symm
  have response : rspWord .absorb .ok 0 = 0x01000000#32 := by decide
  have frame := absorbElems_absorbFrame Config.hw input s
  obtain ⟨asked, hports⟩ := frame.ports
  have hdrop : (absorbElems Config.hw input s).ports.preqOut.drop s.ports.preqOut.length = asked := by
    rw [hports]; exact List.drop_left
  rw [href, hdrop]
  have hsent : (finishCommand .absorb (BitVec.ofNat 16 input.length) .ok
      (absorbDone (absorbElems Config.hw input s))).ports =
      { s.ports with
        preqOut := s.ports.preqOut ++ asked, rspOut := s.ports.rspOut ++ [0x01000000#32] } := by
    rw [finishCommand_ports, rspCount_of_ne_squeeze (by decide), response, absorbDone_ports, hports]
  have hwr : (absorbElems Config.hw input s).ctrl.wrIdx = s.ctrl.wrIdx := by rw [frame.ctrl]
  have hdout : (absorbElems Config.hw input s).ctrl.doutIdx = s.ctrl.doutIdx := by rw [frame.ctrl]
  refine ⟨_, hrun, ?_⟩
  rw [hsent]
  exact ⟨rfl, rfl, rfl, congrArg (· + 1) frame.ioCount, rfl, frame.pat, frame.patternLen, frame.out,
    frame.outLen, frame.fault, rfl, hwr, hdout, rfl, rfl, inputsKept_refl s.ports⟩

/-! ## SQUEEZE -/

/-- `s` is where the loop on numbers stands at `r`, having begun at `base` (R111). -/
structure SqueezeMatches (base : State) (r : SqueezeRef) (s : State) : Prop where
  lanes : r.lanes = s.arch.lanes
  squeezePos : r.squeezePos = s.arch.squeezePos.val
  absorbPos : r.absorbPos = s.arch.absorbPos.val
  outLen : s.arch.outLen = base.arch.outLen + r.produced.length
  requests : s.ports.preqOut = base.ports.preqOut ++ r.asked
  out_wf : Store.wf s.arch.out = true
  read : ∀ i, Store.read s.arch.out i =
    if base.arch.outLen ≤ i ∧ i < s.arch.outLen then r.produced.getD (i - base.arch.outLen) 0
    else Store.read base.arch.out i

theorem squeezeMatches_start {s : State} (hwf : Store.wf s.arch.out = true) :
    SqueezeMatches s ⟨s.arch.lanes, s.arch.squeezePos.val, s.arch.absorbPos.val, [], []⟩ s where
  lanes := rfl
  squeezePos := rfl
  absorbPos := rfl
  outLen := rfl
  requests := (List.append_nil _).symm
  out_wf := hwf
  read := fun i => by rw [if_neg (by omega)]

/-- What OUT reads after one element more (R111). -/
theorem SqueezeMatches.read_append {base s : State} {r : SqueezeRef} (h : SqueezeMatches base r s)
    (v i : Nat) :
    Store.read (Store.write s.arch.out s.arch.outLen v) i =
      if base.arch.outLen ≤ i ∧ i < s.arch.outLen + 1 then
        (r.produced ++ [v]).getD (i - base.arch.outLen) 0
      else Store.read base.arch.out i := by
  have hlen := h.outLen
  rw [read_write h.out_wf, h.read]
  by_cases hi : i = s.arch.outLen
  · rw [if_pos hi, if_pos (by omega), List.getD_append_right _ _ _ _ (by omega)]
    have : i - base.arch.outLen - r.produced.length = 0 := by omega
    rw [this]
    rfl
  · rw [if_neg hi]
    by_cases hin : base.arch.outLen ≤ i ∧ i < s.arch.outLen
    · rw [if_pos hin, if_pos (by omega), List.getD_append _ _ _ _ (by omega)]
    · rw [if_neg hin, if_neg (by omega)]

/-- One turn of the loop on numbers is one element step (R111). -/
theorem SqueezeMatches.step {p : Params} {base s t : State} {r : SqueezeRef}
    (h : SqueezeMatches base r s) (ht : squeezeElem p s = .ok t) :
    SqueezeMatches base (squeezeRef p 1 r) t := by
  have hlen := h.outLen
  rcases squeezeElem_ok_cases ht with ⟨i, hlt, hi, rfl, hpos⟩ | ⟨hrate, rfl, hpos⟩
  · have hne : r.squeezePos ≠ RATE := by rw [h.squeezePos]; simp only [RATE]; omega
    have hval : r.lanes.toList.getD (r.squeezePos + CAPACITY) 0 = s.arch.lanes[i] := by
      rw [h.lanes, h.squeezePos]; exact toList_getD_eq_getElem _ hi
    have hturn : squeezeRef p 1 r =
        { r with squeezePos := r.squeezePos + 1, produced := r.produced ++ [s.arch.lanes[i]] } := by
      rw [squeezeRef, if_neg hne, squeezeRef, hval]
    rw [hturn]
    exact ⟨h.lanes, by rw [hpos, h.squeezePos], h.absorbPos,
      by rw [List.length_append, List.length_singleton, ← Nat.add_assoc, ← hlen]; rfl,
      h.requests, wf_write h.out_wf _ _, h.read_append _⟩
  · have hturn : squeezeRef p 1 r =
        { lanes := p.permute s.arch.lanes, squeezePos := 1, absorbPos := 0
          produced := r.produced ++ [(p.permute s.arch.lanes)[firstRateLane]]
          asked := r.asked ++ [s.arch.lanes] } := by
      rw [squeezeRef, if_pos (by rw [h.squeezePos]; exact hrate), squeezeRef, h.lanes]
      rfl
    rw [hturn]
    exact ⟨rfl, hpos.symm, rfl,
      by rw [List.length_append, List.length_singleton, ← Nat.add_assoc, ← hlen]; rfl,
      by rw [tookElem_ports, permuteForSqueeze_ports, h.requests, List.append_assoc],
      wf_write h.out_wf _ _, h.read_append _⟩

theorem squeezeRef_succ (p : Params) (n : Nat) (r : SqueezeRef) :
    squeezeRef p (n + 1) r = squeezeRef p n (squeezeRef p 1 r) := by
  rw [squeezeRef]
  by_cases hr : r.squeezePos = RATE
  · rw [if_pos hr, squeezeRef, if_pos hr, squeezeRef]
  · rw [if_neg hr, squeezeRef, if_neg hr, squeezeRef]

/-- The loop of the machine ends where the loop on numbers does (R111). -/
theorem SqueezeMatches.loop {p : Params} {n : Nat} {base s u : State} {r : SqueezeRef}
    (h : SqueezeMatches base r s) (hu : squeezeElems p n s = .ok u) :
    SqueezeMatches base (squeezeRef p n r) u := by
  induction n generalizing s r with
  | zero => cases hu; exact h
  | succ n ih =>
    obtain ⟨t, ht, hrest⟩ := squeezeElems_succ_ok hu
    rw [squeezeRef_succ]
    exact ih (h.step ht) hrest

/-- What a SQUEEZE that succeeds has sent (R70, R72, R113). -/
theorem squeezeEnd_ports (u : State) (hlen : u.arch.outLen < 65536) :
    (squeezeEnd 0 u).ports = { u.ports with
      rspOut := u.ports.rspOut ++ [BitVec.ofNat 32 (0x02000000 + 256 * u.arch.outLen)]
      doutOut := u.ports.doutOut ++ (List.range u.arch.outLen).map
        fun i => (Store.read u.arch.out i, decide (i + 1 = u.arch.outLen)) } := by
  have hword : rspWord .squeeze .ok u.arch.outLen =
      BitVec.ofNat 32 (0x02000000 + 256 * u.arch.outLen) := by
    rw [rspWord_eq_ofNat .squeeze .ok hlen]
    refine congrArg _ ?_
    show 0 + u.arch.outLen * 2 ^ 8 + 2 * 2 ^ 24 = _
    omega
  have hwords := outWords_eq (squeezeDone u).arch u.arch.outLen 0
  have hout : (squeezeDone u).arch.out = u.arch.out := rfl
  simp only [Nat.zero_add, hout] at hwords
  rw [← hwords, ← hword]
  rfl

/-- Settles O17: the checks pass, and the loop is the loop on numbers. -/
theorem squeezeRunsTheElementLoop : Obligations.SqueezeRunsTheElementLoop := by
  unfold Obligations.SqueezeRunsTheElementLoop
  rintro s _ hne hi rfl hroom hwf
  obtain ⟨u, hu, hrun⟩ := squeezeWith_of_room (p := Config.hw) hne hi hroom
  have frame := squeezeElems_frame_of_ok hu hroom
  have hmatch := (squeezeMatches_start hwf).loop hu
  obtain ⟨asked, hports⟩ := frame.ports
  have hmax := hw_valid.outMax_le
  have hlen := frame.outLen
  have hsent := squeezeEnd_ports u (by omega)
  have hread := hmatch.read
  rw [hlen] at hread
  have hwr : u.ctrl.wrIdx = s.ctrl.wrIdx := by rw [frame.ctrl]
  refine ⟨squeezeEnd 0 u, hrun, hmatch.lanes.symm, hmatch.squeezePos.symm, hmatch.absorbPos.symm,
    hmatch.requests, hread, hlen, congrArg (· + 1) frame.ioCount, frame.pat, frame.patternLen,
    frame.fault, rfl, hwr, ?_⟩
  rw [hsent, hports]
  exact ⟨rfl, rfl, inputsKept_refl s.ports⟩

/-- Settles O20: the stream is the accumulator, of which the loop has left what was below `out_len`. -/
theorem squeezeOutputIsCumulative : Obligations.SqueezeOutputIsCumulative := by
  unfold Obligations.SqueezeOutputIsCumulative
  intro s t hwf hexec hok
  obtain ⟨hroom, u, hu, rfl⟩ := squeezeWith_ok (p := Config.hw) hexec hok
  have frame := squeezeElems_frame_of_ok hu hroom
  have appends := squeezeElems_appends hu
  obtain ⟨asked, hports⟩ := frame.ports
  have hmax := hw_valid.outMax_le
  have hlen := frame.outLen
  have hsent := squeezeEnd_ports u (by omega)
  have hout : (squeezeEnd 0 u).ports.doutOut = s.ports.doutOut ++ (List.range u.arch.outLen).map
      fun i => (Store.read u.arch.out i, decide (i + 1 = u.arch.outLen)) := by rw [hsent, hports]
  refine ⟨_, hout, by rw [List.length_map, List.length_range, hlen], fun i hi => ?_, fun i hi => ?_,
    fun i hi => ?_⟩
  · have hlt : i < u.arch.outLen := by omega
    rw [List.map_map, List.getElem?_map, List.getElem?_range hlt, ← appends.read_below hwf i hi]
    rfl
  · rw [List.length_map, List.length_range] at hi
    rw [List.map_map, List.getElem?_map, List.getElem?_range hi]
    rfl
  · rw [List.length_map, List.length_range] at hi ⊢
    rw [List.map_map, List.getElem?_map, List.getElem?_range hi]
    rfl

/-! ## ABSORB and SQUEEZE after each other -/

/-- Settles O22: the sentinel that ABSORB leaves makes the first element of a SQUEEZE permute. -/
theorem absorbedDataIsPermutedBeforeOutput : Obligations.AbsorbedDataIsPermutedBeforeOutput := by
  unfold Obligations.AbsorbedDataIsPermutedBeforeOutput
  intro p input s t _ hexec hok
  rcases absorbWith_next hexec with ⟨c, hc, rfl⟩ | ⟨-, -, rfl⟩
  · exact absurd hok hc
  · refine ⟨rfl, fun hwf hentry v hsqueeze hok' => ?_⟩
    have frame := absorbElems_absorbFrame p input s
    have hwf' : Store.wf (absorbElems p input s).arch.out = true := by rw [frame.out]; exact hwf
    obtain ⟨-, u, hu, rfl⟩ := squeezeWith_ok (p := p) hsqueeze hok'
    have first := squeezeElems_first_permutation (k := 0) hu hentry hwf' rfl
    exact first

/-- Below RATE the loop adds element after element into the lanes from the cursor on, and nothing is
permuted (R101). -/
theorem absorbElems_below_rate (p : Params) (xs : List Nat) {s : State}
    (hxs : s.arch.absorbPos.val + xs.length ≤ 3) :
    (absorbElems p xs s).ports = s.ports ∧ ∀ j : Fin WIDTH, (absorbElems p xs s).arch.lanes[j] =
      if s.arch.absorbPos.val + 1 ≤ j.val ∧ j.val ≤ s.arch.absorbPos.val + xs.length then
        (s.arch.lanes[j] + xs.getD (j.val - (s.arch.absorbPos.val + 1)) 0) % p.modulus
      else s.arch.lanes[j] := by
  induction xs generalizing s with
  | nil => exact ⟨rfl, fun j => by rw [List.length_nil, if_neg (by omega)]; rfl⟩
  | cons x xs ih =>
    rw [List.length_cons] at hxs
    rcases absorbElem_step p x s with ⟨i, hlt, hi, hstep, hpos⟩ | ⟨hrate, -, -⟩
    · obtain ⟨hports, hlanes⟩ := ih (s := absorbElem p x s) (by omega)
      rw [absorbElems]
      refine ⟨hports.trans (by rw [hstep]; rfl), fun j => ?_⟩
      rw [hlanes, hpos, hstep, addElem_lanes, getElem_addLane_val _ _ hi, List.length_cons]
      rcases Nat.lt_trichotomy j.val (s.arch.absorbPos.val + 1) with hj | hj | hj
      · rw [if_neg (by omega), if_neg (by omega), if_neg (by omega)]
      · have hzero : j.val - (s.arch.absorbPos.val + 1) = 0 := by omega
        rw [if_neg (by omega), if_pos hj, if_pos (by omega), hzero]
        rfl
      · obtain ⟨d, hd⟩ : ∃ d, j.val = s.arch.absorbPos.val + 1 + 1 + d :=
          ⟨j.val - (s.arch.absorbPos.val + 1 + 1), by omega⟩
        have hcons : j.val - (s.arch.absorbPos.val + 1) = d + 1 := by omega
        have htail : j.val - (s.arch.absorbPos.val + 1 + 1) = d := by omega
        rw [hcons, htail, List.getD_cons_succ, if_neg (by omega : ¬j.val = s.arch.absorbPos.val + 1)]
        exact if_congr (by omega) rfl rfl
    · omega

/-- Settles O23: a permutation on the squeeze path leaves `absorb_pos` at 0, from where three elements go
below RATE. -/
theorem absorbAfterSqueezeDoesNotPermuteAgain : Obligations.AbsorbAfterSqueezeDoesNotPermuteAgain := by
  unfold Obligations.AbsorbAfterSqueezeDoesNotPermuteAgain
  intro p input s t u _ hshort hsqueeze hasked habsorb
  have hpos : t.arch.absorbPos = 0 := by
    rcases squeezeWith_next hsqueeze with ⟨c, -, rfl⟩ | ⟨-, hroom, v, hv, rfl⟩
    · exact absurd rfl hasked
    · obtain ⟨hlen, habs⟩ := squeezeElems_requests hv
      have frame := squeezeElems_frame_of_ok hv hroom
      obtain ⟨asked, hports⟩ := frame.ports
      have hnone : ¬(s.arch.squeezePos.val + Store.read s.arch.pat s.arch.ioCount - 1) / 3 = 0 := by
        intro h0
        rw [h0, hports, List.length_append] at hlen
        have hnil : asked = [] := List.eq_nil_of_length_eq_zero (by omega)
        refine hasked ?_
        show v.ports.preqOut = s.ports.preqOut
        rw [hports, hnil]
        exact List.append_nil _
      exact habs.trans (if_neg hnone)
  have hval : t.arch.absorbPos.val = 0 := by rw [hpos]; rfl
  rcases absorbWith_next habsorb with ⟨c, hc, rfl⟩ | ⟨-, -, rfl⟩
  · exact ⟨rfl, hpos, fun hok => absurd hok hc⟩
  · obtain ⟨hports, hlanes⟩ := absorbElems_below_rate p input (s := t) (by omega)
    have hreq : (absorbElems p input t).ports.preqOut = t.ports.preqOut := by rw [hports]
    refine ⟨hreq, hpos, fun _ j => (hlanes j).trans ?_⟩
    rw [hval]
    by_cases hj : 1 ≤ j.val ∧ j.val ≤ input.length
    · rw [dif_pos hj, if_pos (by omega), List.getD_eq_getElem _ _ (by omega)]
    · rw [dif_neg hj, if_neg (by omega)]

end Sys2Proof.Proofs
end

section
/-! Transcripts on numbers: a started engine stands where the two loops on numbers stand, ABSORB after
ABSORB and SQUEEZE after SQUEEZE; with it the reference scenario [5,4] (V1) and the two patterns that give
the same outputs (spec/90_conflicts.md C3). -/

namespace Sys2Proof.Proofs

open Sys2Proof Sys2Proof.Machine Sys2Proof.Laws

/-! ## A transcript on numbers -/

/-- The engine `t`, `io` entries on from `base` in the same pattern, stands where the loops on numbers
stand at `r`. -/
structure Transcript (base : State) (io : Nat) (r : SqueezeRef) (t : State) : Prop where
  pat : t.arch.pat = base.arch.pat
  patternLen : t.arch.patternLen = base.arch.patternLen
  ioCount : t.arch.ioCount = io
  stands : SqueezeMatches base r t

/-- The engine that a successful START leaves (R90). -/
def started (pattern : List Nat) (tag : Nat) (s : State) : State :=
  finishCommand .start (BitVec.ofNat 16 pattern.length) .ok (startLoad pattern tag (startClear s))

theorem startWith_started {p : Params} (hp : p.Valid) {pattern : List Nat} {tag : Nat}
    (htag : tag < p.modulus) (hmax : pattern.length ≤ p.patternMax)
    (hall : pattern.all legalEntry = true) (s : State) :
    startWith p pattern tag s = .next (started pattern tag s) := by
  rw [startWith_eq, (canonicalWord_iff hp tag).2 htag, startOn, if_neg (Nat.not_lt.2 hmax), hall]
  rfl

theorem started_transcript (pattern : List Nat) (tag : Nat) (s : State) :
    Transcript (started pattern tag s) 0 ⟨#v[tag, 0, 0, 0], 0, 0, [], []⟩ (started pattern tag s) :=
  ⟨rfl, rfl, rfl, squeezeMatches_start rfl⟩

/-- Where the loops on numbers stand after an ABSORB (R100, R101). -/
def absorbTurn (p : Params) (input : List Nat) (r : SqueezeRef) : SqueezeRef :=
  { r with
    lanes := (absorbRef p input (r.lanes, r.absorbPos, r.asked)).1
    absorbPos := (absorbRef p input (r.lanes, r.absorbPos, r.asked)).2.1
    squeezePos := 3
    asked := (absorbRef p input (r.lanes, r.absorbPos, r.asked)).2.2 }

section Turns

variable {p : Params} (hp : p.Valid) {base t : State} {io : Nat} {r : SqueezeRef}

include hp

/-- An ABSORB whose checks pass is a turn of the transcript. -/
theorem Transcript.absorb (h : Transcript base io r t) (hlive : io < base.arch.patternLen)
    (hmax : base.arch.patternLen ≤ p.patternMax) {input : List Nat}
    (hinput : ∀ x ∈ input, x < p.modulus) (hentry : Store.read base.arch.pat io = input.length) :
    ∃ t', absorbWith p input t = .next t' ∧ Transcript base (io + 1) (absorbTurn p input r) t' ∧
      t'.ports.doutOut = t.ports.doutOut := by
  have hio := h.ioCount
  have hrun := absorbWith_match (p := p) (input := input) (s := t)
    (by rw [hio, h.patternLen]; omega) (by omega) (by rw [h.pat, hio, hentry])
  rw [all_canonical hp hinput] at hrun
  have frame := absorbElems_absorbFrame p input t
  obtain ⟨asked, hports⟩ := frame.ports
  have href := absorbRef_eq p input h.stands.requests
  rw [← h.stands.lanes, ← h.stands.absorbPos] at href
  have hreq : (absorbElems p input t).ports.preqOut =
      base.ports.preqOut ++ (absorbElems p input t).ports.preqOut.drop base.ports.preqOut.length := by
    rw [hports, h.stands.requests, List.append_assoc, List.drop_left]
  have hread : ∀ i, Store.read (absorbElems p input t).arch.out i =
      if base.arch.outLen ≤ i ∧ i < (absorbElems p input t).arch.outLen then
        r.produced.getD (i - base.arch.outLen) 0
      else Store.read base.arch.out i := by
    rw [frame.out, frame.outLen]; exact h.stands.read
  refine ⟨_, hrun, ⟨frame.pat.trans h.pat, frame.patternLen.trans h.patternLen,
    congrArg (· + 1) (frame.ioCount.trans hio), ?_⟩, ?_⟩
  · unfold absorbTurn
    rw [href]
    exact ⟨rfl, rfl, rfl, frame.outLen.trans h.stands.outLen, hreq,
      by rw [finishCommand_arch]; exact frame.out ▸ h.stands.out_wf, hread⟩
  · show (absorbElems p input t).ports.doutOut = t.ports.doutOut
    rw [hports]

/-- A SQUEEZE whose checks pass is a turn of the transcript, and streams the accumulator. -/
theorem Transcript.squeeze (h : Transcript base io r t) (hlive : io < base.arch.patternLen)
    (hmax : base.arch.patternLen ≤ p.patternMax)
    (hroom : base.arch.outLen + r.produced.length + Store.read base.arch.pat io ≤ p.outMax) :
    ∃ t', squeezeWith p t = .next t' ∧
      Transcript base (io + 1) (squeezeRef p (Store.read base.arch.pat io) r) t' ∧
      t'.ports.doutOut = t.ports.doutOut ++ (List.range t'.arch.outLen).map
        fun i => (Store.read t'.arch.out i, decide (i + 1 = t'.arch.outLen)) := by
  have hio := h.ioCount
  have hentry : Store.read t.arch.pat t.arch.ioCount = Store.read base.arch.pat io := by
    rw [h.pat, hio]
  have hlen := h.stands.outLen
  obtain ⟨u, hu, hrun⟩ := squeezeWith_of_room (p := p) (s := t)
    (by rw [hio, h.patternLen]; omega) (by omega) (by omega)
  have frame := squeezeElems_frame_of_ok hu (by omega)
  obtain ⟨asked, hports⟩ := frame.ports
  rw [hentry] at hu
  have hu' := frame.outLen
  have hout := hp.outMax_le
  refine ⟨squeezeEnd 0 u, hrun, ⟨frame.pat.trans h.pat, frame.patternLen.trans h.patternLen,
    congrArg (· + 1) (frame.ioCount.trans hio), ?_⟩, ?_⟩
  · have hmatch := h.stands.loop hu
    exact ⟨hmatch.lanes, hmatch.squeezePos, hmatch.absorbPos, hmatch.outLen, hmatch.requests,
      hmatch.out_wf, hmatch.read⟩
  · rw [squeezeEnd_ports u (by omega), hports]
    rfl

end Turns

/-! ## The loops on numbers, turn by turn -/

section LoopTurns

variable (p : Params)

/-- The first element goes to rate lane 0 (R101). -/
theorem absorbRef_turn_zero (x : Nat) (xs : List Nat) (a b c d : Nat) (asked : List Lanes) :
    absorbRef p (x :: xs) (#v[a, b, c, d], 0, asked) =
      absorbRef p xs (#v[a, (b + x) % p.modulus, c, d], 1, asked) := rfl

/-- The second goes to rate lane 1. -/
theorem absorbRef_turn_one (x : Nat) (xs : List Nat) (a b c d : Nat) (asked : List Lanes) :
    absorbRef p (x :: xs) (#v[a, b, c, d], 1, asked) =
      absorbRef p xs (#v[a, b, (c + x) % p.modulus, d], 2, asked) := rfl

/-- The third goes to rate lane 2. -/
theorem absorbRef_turn_two (x : Nat) (xs : List Nat) (a b c d : Nat) (asked : List Lanes) :
    absorbRef p (x :: xs) (#v[a, b, c, d], 2, asked) =
      absorbRef p xs (#v[a, b, c, (d + x) % p.modulus], 3, asked) := rfl

/-- The fourth permutes first. -/
theorem absorbRef_turn_rate (x : Nat) (xs : List Nat) (l : Lanes) (asked : List Lanes) :
    absorbRef p (x :: xs) (l, 3, asked) =
      absorbRef p xs ((p.permute l).set 1 (((p.permute l)[1] + x) % p.modulus), 1, asked ++ [l]) := rfl

/-- A message of three goes whole into the rate lanes that START left 0. -/
theorem absorbRef_three {tag x1 x2 x3 : Nat} (h1 : x1 < p.modulus) (h2 : x2 < p.modulus)
    (h3 : x3 < p.modulus) (xs : List Nat) :
    absorbRef p (x1 :: x2 :: x3 :: xs) (#v[tag, 0, 0, 0], 0, []) =
      absorbRef p xs (#v[tag, x1, x2, x3], 3, []) := by
  rw [absorbRef_turn_zero, absorbRef_turn_one, absorbRef_turn_two]
  simp only [Nat.zero_add, Nat.mod_eq_of_lt h1, Nat.mod_eq_of_lt h2, Nat.mod_eq_of_lt h3]

/-- Lanes are their four lanes (R11). -/
theorem lanes_eta (l : Lanes) : l = #v[l[0], l[1], l[2], l[3]] := by
  ext i hi
  have hlt : i < 4 := hi
  have : i = 0 ∨ i = 1 ∨ i = 2 ∨ i = 3 := by omega
  rcases this with rfl | rfl | rfl | rfl <;> rfl

/-- V1's ABSORB on numbers: one permutation, before the fourth element. -/
theorem absorbRef_five {tag x1 x2 x3 : Nat} (h1 : x1 < p.modulus) (h2 : x2 < p.modulus)
    (h3 : x3 < p.modulus) (x4 x5 : Nat) {a : Lanes} (ha : a = p.permute #v[tag, x1, x2, x3]) :
    absorbRef p [x1, x2, x3, x4, x5] (#v[tag, 0, 0, 0], 0, []) =
      (#v[a[0], (a[1] + x4) % p.modulus, (a[2] + x5) % p.modulus, a[3]], 2,
        [#v[tag, x1, x2, x3]]) := by
  rw [absorbRef_three p h1 h2 h3, absorbRef_turn_rate, ← ha]
  have hset : a.set 1 ((a[1] + x4) % p.modulus) =
      #v[a[0], (a[1] + x4) % p.modulus, a[2], a[3]] := by
    conv_lhs => rw [lanes_eta a]
    rfl
  rw [hset, absorbRef_turn_one]
  rfl

/-- At RATE the first element is rate lane 0 of the permuted lanes (R111). -/
theorem squeezeRef_turn_rate (n : Nat) (l : Lanes) (apos : Nat) (produced : List Nat)
    (asked : List Lanes) :
    squeezeRef p (n + 1) ⟨l, 3, apos, produced, asked⟩ =
      squeezeRef p n ⟨p.permute l, 1, 0, produced ++ [(p.permute l)[1]], asked ++ [l]⟩ := rfl

/-- Then rate lane 1. -/
theorem squeezeRef_turn_one (n : Nat) (l : Lanes) (apos : Nat) (produced : List Nat)
    (asked : List Lanes) :
    squeezeRef p (n + 1) ⟨l, 1, apos, produced, asked⟩ =
      squeezeRef p n ⟨l, 2, apos, produced ++ [l[2]], asked⟩ := by
  have hlane : l.toList.getD 2 0 = l[2] := toList_getD_eq_getElem l (i := 2) rfl
  rw [← hlane]
  rfl

/-- Then rate lane 2. -/
theorem squeezeRef_turn_two (n : Nat) (l : Lanes) (apos : Nat) (produced : List Nat)
    (asked : List Lanes) :
    squeezeRef p (n + 1) ⟨l, 2, apos, produced, asked⟩ =
      squeezeRef p n ⟨l, 3, apos, produced ++ [l[3]], asked⟩ := by
  have hlane : l.toList.getD 3 0 = l[3] := toList_getD_eq_getElem l (i := 3) rfl
  rw [← hlane]
  rfl

/-- V1's SQUEEZE on numbers: a permutation before the first element and one before the fourth. -/
theorem squeezeRef_four (l : Lanes) (apos : Nat) (asked : List Lanes) {b1 b2 : Lanes}
    (h1 : b1 = p.permute l) (h2 : b2 = p.permute b1) :
    squeezeRef p 4 ⟨l, 3, apos, [], asked⟩ =
      ⟨b2, 1, 0, [b1[1], b1[2], b1[3], b2[1]], asked ++ [l, b1]⟩ := by
  rw [squeezeRef_turn_rate, squeezeRef_turn_one, squeezeRef_turn_two, squeezeRef_turn_rate,
    ← h1, ← h2, List.append_assoc _ [l]]
  rfl

end LoopTurns

/-! ## The reference scenario [5,4] -/

/-- Where V1 stands after its ABSORB. -/
theorem absorbTurn_five (p : Params) {tag x1 x2 x3 : Nat} (h1 : x1 < p.modulus) (h2 : x2 < p.modulus)
    (h3 : x3 < p.modulus) (x4 x5 : Nat) {a : Lanes} (ha : a = p.permute #v[tag, x1, x2, x3]) :
    absorbTurn p [x1, x2, x3, x4, x5] ⟨#v[tag, 0, 0, 0], 0, 0, [], []⟩ =
      ⟨#v[a[0], (a[1] + x4) % p.modulus, (a[2] + x5) % p.modulus, a[3]], 3, 2, [],
        [#v[tag, x1, x2, x3]]⟩ := by
  simp only [absorbTurn, absorbRef_five p h1 h2 h3 x4 x5 ha]

/-- Settles O59: START, ABSORB and SQUEEZE are three turns of a transcript, each evaluated on numbers. -/
theorem referenceScenarioFiveFour : Obligations.ReferenceScenarioFiveFour := by
  unfold Obligations.ReferenceScenarioFiveFour
  intro p tag x1 x2 x3 x4 x5 s hp hpat hout htag h1 h2 h3 h4 h5
  have hstart := startWith_started hp htag (pattern := [5, 4]) hpat (by decide) s
  obtain ⟨t, habsorb, ht, hdout⟩ := (started_transcript [5, 4] tag s).absorb hp (by decide : 0 < 2) hpat
    (input := [x1, x2, x3, x4, x5]) (by simp [h1, h2, h3, h4, h5]) rfl
  obtain ⟨u, hsqueeze, hu, hstream⟩ := ht.squeeze hp (by decide : 1 < 2) hpat hout
  have hrun : execAll p [.start [5, 4] tag, .absorb [x1, x2, x3, x4, x5], .squeeze] s = .next u := by
    simp only [execAll, execWith, hstart, habsorb, hsqueeze]
  obtain ⟨a1, ha1⟩ : ∃ a1, a1 = p.permute #v[tag, x1, x2, x3] := ⟨_, rfl⟩
  obtain ⟨a2, ha2⟩ : ∃ a2, a2 = #v[a1[0], (a1[1] + x4) % p.modulus, (a1[2] + x5) % p.modulus, a1[3]] :=
    ⟨_, rfl⟩
  obtain ⟨b1, hb1⟩ : ∃ b1, b1 = p.permute a2 := ⟨_, rfl⟩
  obtain ⟨b2, hb2⟩ : ∃ b2, b2 = p.permute b1 := ⟨_, rfl⟩
  have hfour : Transcript (started [5, 4] tag s) 2
      ⟨b2, 1, 0, [b1[1], b1[2], b1[3], b2[1]], [#v[tag, x1, x2, x3], a2, b1]⟩ u := by
    rw [absorbTurn_five p h1 h2 h3 x4 x5 ha1, ← ha2] at hu
    have hturn := squeezeRef_four p a2 2 [#v[tag, x1, x2, x3]] hb1 hb2
    exact hturn ▸ hu
  have hlen : u.arch.outLen = 4 := hfour.stands.outLen
  have hread := hfour.stands.read
  refine ⟨u, a1, a2, b1, b2, hrun, ha1, ha2, hb1, hb2, hfour.stands.requests, ?_,
    hfour.stands.lanes.symm, hfour.stands.absorbPos.symm, hfour.stands.squeezePos.symm, hfour.ioCount⟩
  rw [hstream, hdout, hlen]
  simp only [hread, hlen]
  rfl

/-! ## Two patterns with the same outputs -/

/-- A store in canonical form is determined by what it reads (entry 15). -/
theorem store_ext {lo : Nat} {m m' : Store} (hm : Store.wfFrom lo m = true)
    (hm' : Store.wfFrom lo m' = true) (h : ∀ i, Store.read m i = Store.read m' i) : m = m' := by
  induction m generalizing lo m' with
  | nil =>
    cases m' with
    | nil => rfl
    | cons e r =>
      obtain ⟨j, w⟩ := e
      have hread := h j
      simp_all [Store.wfFrom, Store.read]
  | cons e r ih =>
    obtain ⟨j, w⟩ := e
    simp only [Store.wfFrom, Bool.and_eq_true, bne_iff_ne, decide_eq_true_eq] at hm
    obtain ⟨⟨hj, hw⟩, hr⟩ := hm
    cases m' with
    | nil =>
      have hread := h j
      simp_all [Store.read]
    | cons e' r' =>
      obtain ⟨j', w'⟩ := e'
      simp only [Store.wfFrom, Bool.and_eq_true, bne_iff_ne, decide_eq_true_eq] at hm'
      obtain ⟨⟨hj', hw'⟩, hr'⟩ := hm'
      simp only [Store.read] at h
      rcases Nat.lt_trichotomy j j' with hlt | rfl | hlt
      · have hread := h j
        rw [if_pos rfl, if_neg (by omega), read_below r' j hr' (by omega)] at hread
        exact absurd hread hw
      · have hww := h j
        rw [if_pos rfl, if_pos rfl] at hww
        have hrest : ∀ i, Store.read r i = Store.read r' i := fun i => by
          rcases Nat.lt_or_ge i (j + 1) with hi | hi
          · rw [read_below r i hr hi, read_below r' i hr' hi]
          · have hread := h i
            rwa [if_neg (by omega), if_neg (by omega)] at hread
        rw [hww, ih hr hr' hrest]
      · have hread := h j'
        rw [if_neg (by omega), if_pos rfl, read_below r j' hr (by omega)] at hread
        exact absurd hread.symm hw'

/-- Settles O60: the three elements lie in the rate lanes at RATE, so that both transcripts squeeze rate
lanes 0 and 1 of one permutation, in one SQUEEZE or in two. -/
theorem differentPatternsSameOutputs : Obligations.DifferentPatternsSameOutputs := by
  unfold Obligations.DifferentPatternsSameOutputs
  intro p tag x1 x2 x3 s hp hpat hout htag h1 h2 h3
  have hinput : ∀ x ∈ [x1, x2, x3], x < p.modulus := by simp [h1, h2, h3]
  have habs : absorbTurn p [x1, x2, x3] ⟨#v[tag, 0, 0, 0], 0, 0, [], []⟩ =
      ⟨#v[tag, x1, x2, x3], 3, 3, [], []⟩ := by
    simp only [absorbTurn, absorbRef_three p h1 h2 h3 []]
    rfl
  have hstart := startWith_started hp htag (pattern := [3, 2]) (by simp; omega) (by decide) s
  have hstart' := startWith_started hp htag (pattern := [3, 1, 1]) hpat (by decide) s
  obtain ⟨t1, habsorb, ht1, -⟩ := (started_transcript [3, 2] tag s).absorb hp (by decide : 0 < 2)
    (by show 2 ≤ _; omega) hinput rfl
  obtain ⟨u1, habsorb', hu1, -⟩ := (started_transcript [3, 1, 1] tag s).absorb hp (by decide : 0 < 3)
    hpat hinput rfl
  rw [habs] at ht1 hu1
  obtain ⟨t, hsqueeze, ht, -⟩ := ht1.squeeze hp (by decide : 1 < 2) (by show 2 ≤ _; omega) hout
  obtain ⟨u2, hsqueeze', hu2, -⟩ := hu1.squeeze hp (by decide : 1 < 3) hpat
    (by show 1 ≤ _; omega)
  obtain ⟨u, hsqueeze'', hu, -⟩ := hu2.squeeze hp (by decide : 2 < 3) hpat hout
  have hrun : execAll p [.start [3, 2] tag, .absorb [x1, x2, x3], .squeeze] s = .next t := by
    simp only [execAll, execWith, hstart, habsorb, hsqueeze]
  have hrun' : execAll p [.start [3, 1, 1] tag, .absorb [x1, x2, x3], .squeeze, .squeeze] s =
      .next u := by
    simp only [execAll, execWith, hstart', habsorb', hsqueeze', hsqueeze'']
  have hlen : t.arch.outLen = 2 := ht.stands.outLen
  have hlen' : u.arch.outLen = 2 := hu.stands.outLen
  have hread := ht.stands.read
  have hread' := hu.stands.read
  rw [hlen] at hread
  rw [hlen'] at hread'
  exact ⟨t, u, hrun, hrun', hlen, hlen',
    store_ext ht.stands.out_wf hu.stands.out_wf fun i => (hread i).trans (hread' i).symm,
    ht.stands.lanes.symm.trans hu.stands.lanes⟩

end Sys2Proof.Proofs
end

section
/-! What every command that answers has in common: the ports it leaves (R70, R72, R127), the outcome in the
order of the tests (R178), the moves of `io_count` and `out_len` (R18, R26) and the lifecycle (R162). -/

namespace Sys2Proof.Proofs

open Sys2Proof Sys2Proof.Machine Sys2Proof.Laws

/-! ## What a command leaves on the ports -/

/-- `t` ends a command of opcode `op` taken in `s`: the controller is idle, one response is sent, and the
output stream and the requests have grown, the first by a successful SQUEEZE alone, the second by a
successful ABSORB or SQUEEZE alone (R70, R72, R130). -/
structure Answered (op : Op) (s t : State) : Prop where
  idle : t.ctrl.phase = .idle
  count : rspCount op t.ctrl.pend t.arch < 65536
  ports : ∃ dout preq,
    t.ports = { s.ports with
      rspOut := s.ports.rspOut ++ [rspWord op t.ctrl.pend (rspCount op t.ctrl.pend t.arch)]
      doutOut := s.ports.doutOut ++ dout
      preqOut := s.ports.preqOut ++ preq } ∧
    (op ≠ .squeeze ∨ t.ctrl.pend ≠ .ok → dout = []) ∧
    (op = .start ∨ op = .finish ∨ t.ctrl.pend ≠ .ok → preq = [])

/-- A command that only ends, from an engine with the same ports, streams and asks nothing. -/
theorem answered_finishCommand {op : Op} {st : Status} {s u : State} (len : BitVec LEN_BITS)
    (hcount : rspCount op st u.arch = 0) (hports : u.ports = s.ports) :
    Answered op s (finishCommand op len st u) where
  idle := rfl
  count := by
    show rspCount op st u.arch < 65536
    rw [hcount]; decide
  ports := ⟨[], [], by
    rw [finishCommand_ports, hports, List.append_nil, List.append_nil]; rfl, fun _ => rfl, fun _ => rfl⟩

theorem answered_raiseError {op : Op} {c : Status} (hc : c ≠ .ok) {s u : State} (len : BitVec LEN_BITS)
    (hports : u.ports = s.ports) : Answered op s (raiseError op len c u) :=
  answered_finishCommand len (rspCount_of_error op hc _) hports

theorem startWith_answered {p : Params} {pattern : List Nat} {tag : Nat} {s t : State}
    (h : startWith p pattern tag s = .next t) : Answered .start s t := by
  rcases startWith_next h with ⟨c, wr, hc, -, rfl⟩ | ⟨-, -, rfl⟩
  · exact answered_raiseError hc _ rfl
  · exact answered_finishCommand _ (rspCount_of_ne_squeeze (by decide) _ _) rfl

theorem absorbWith_answered {p : Params} {input : List Nat} {s t : State}
    (h : absorbWith p input s = .next t) : Answered .absorb s t := by
  rcases absorbWith_next h with ⟨c, hc, rfl⟩ | ⟨-, -, rfl⟩
  · exact answered_raiseError hc _ rfl
  · obtain ⟨asked, hports⟩ := (absorbElems_absorbFrame p input s).ports
    refine ⟨rfl, by rw [rspCount_of_ne_squeeze (by decide)]; decide, [], asked, ?_, fun _ => rfl, ?_⟩
    · rw [finishCommand_ports, absorbDone_ports, hports, List.append_nil]
      rfl
    · exact fun hno => by simp at hno

theorem squeezeWith_answered {p : Params} (hp : p.Valid) {s t : State}
    (h : squeezeWith p s = .next t) : Answered .squeeze s t := by
  rcases squeezeWith_next h with ⟨c, hc, rfl⟩ | ⟨-, hroom, u, hu, rfl⟩
  · exact answered_raiseError hc _ rfl
  · have frame := squeezeElems_frame_of_ok hu hroom
    obtain ⟨asked, hports⟩ := frame.ports
    have hlen := frame.outLen
    have hmax := hp.outMax_le
    refine ⟨rfl, ?_, outWords (squeezeDone u).arch 0 u.arch.outLen, asked, ?_, ?_, ?_⟩
    · show u.arch.outLen < 65536
      omega
    · rw [squeezeEnd, streamOut_ports, finishCommand_ports, squeezeDone_ports, hports]
      rfl
    · exact fun hno => by simp [squeezeEnd] at hno
    · exact fun hno => by simp [squeezeEnd] at hno

theorem execFinish_answered {s t : State} (h : execFinish s = .next t) : Answered .finish s t := by
  cases h
  exact answered_finishCommand _ rfl rfl

/-- Every command that answers, answers so. -/
theorem exec_answered {i : Instr} {s t : State} (h : exec i s = .next t) : Answered i.op s t := by
  cases i with
  | start pattern tag => exact startWith_answered (p := Config.hw) h
  | absorb input => exact absorbWith_answered (p := Config.hw) h
  | squeeze => exact squeezeWith_answered hw_valid h
  | finish => exact execFinish_answered h

/-- The host's side is as before (R61). -/
theorem Answered.inputsKept {op : Op} {s t : State} (h : Answered op s t) :
    InputsKept s.ports t.ports := by
  obtain ⟨dout, preq, hports, -, -⟩ := h.ports
  rw [hports]
  exact inputsKept_sent _ _ _ _

theorem Answered.doutOut {op : Op} {s t : State} (h : Answered op s t)
    (hno : op ≠ .squeeze ∨ t.ctrl.pend ≠ .ok) : t.ports.doutOut = s.ports.doutOut := by
  obtain ⟨dout, preq, hports, hdout, -⟩ := h.ports
  rw [hports, hdout hno]
  exact List.append_nil _

theorem Answered.preqOut {op : Op} {s t : State} (h : Answered op s t)
    (hno : op = .start ∨ op = .finish ∨ t.ctrl.pend ≠ .ok) : t.ports.preqOut = s.ports.preqOut := by
  obtain ⟨dout, preq, hports, -, hpreq⟩ := h.ports
  rw [hports, hpreq hno]
  exact List.append_nil _

/-- The response as a number (R70). -/
theorem Answered.rspOut {op : Op} {s t : State} (h : Answered op s t) :
    t.ports.rspOut = s.ports.rspOut ++
      [BitVec.ofNat 32 (t.ctrl.pend.code.toNat + rspCount op t.ctrl.pend t.arch * 2 ^ 8 +
        op.code.toNat * 2 ^ 24)] := by
  obtain ⟨dout, preq, hports, -, -⟩ := h.ports
  rw [hports, ← rspWord_eq_ofNat op _ h.count]

/-- The count, by its two conditions (R70). -/
theorem rspCount_eq (op : Op) (st : Status) (a : Arch) :
    rspCount op st a = if op = .squeeze ∧ st = .ok then a.outLen else 0 := by
  split
  · next h => obtain ⟨rfl, rfl⟩ := h; rfl
  · next h =>
    by_cases hop : op = .squeeze
    · exact rspCount_of_error op (fun hst => h ⟨hop, hst⟩) a
    · exact rspCount_of_ne_squeeze hop st a

/-- The response word of a malformed header (R65, R70). -/
theorem rspWord_badCommand (h : Header) :
    rspWord (hdrOp h) .badCommand 0 = BitVec.ofNat 32 (5 + h.toNat % 4 * 2 ^ 24) := by
  rw [rspWord_eq_ofNat _ _ (by decide), code_hdrOp_toNat]
  rfl

/-- Settles O31: a command that answers has sent its one word; a malformed header's is BadCommand's. -/
theorem everyCommandRespondsOnce : Obligations.EveryCommandRespondsOnce := by
  unfold Obligations.EveryCommandRespondsOnce
  refine ⟨fun i s t hexec => ?_, fun h s t hbad => ?_⟩
  · have answered := exec_answered hexec
    rw [← rspCount_eq]
    exact ⟨answered.rspOut, answered.doutOut⟩
  · cases hbad
    have changes := raiseError_changes (hdrOp h) (hdrLen h) (by decide) s (rspWord_badCommand h)
    rw [changes.2]
    exact ⟨rfl, rfl⟩

/-- Settles O47: a command that asks is an ABSORB or a SQUEEZE that succeeds; an edge records a request in
PERM_REQ alone, which a grant alone enters. -/
theorem onlyTwoPermutationTriggers : Obligations.OnlyTwoPermutationTriggers := by
  unfold Obligations.OnlyTwoPermutationTriggers
  refine ⟨fun i s t hexec => (exec_answered hexec).preqOut, fun pins s t hedge => ?_⟩
  have edge := edgeTo_of_next hedge
  refine ⟨fun hasked => ?_, fun ht hs => ?_⟩
  · by_contra hph
    exact hasked (edge.ports.2 hph)
  · simp only [← eq_sentinel_iff]
    exact edge.enters_permReq ht hs

/-! ## Offered commands -/

/-- Settles O5: the lengths by the bits of the opcode; a command leaves the host's queues as the fetch
left them. -/
theorem everyCommandConsumesItsPayload : Obligations.EveryCommandConsumesItsPayload := by
  unfold Obligations.EveryCommandConsumesItsPayload
  refine ⟨fun h => ?_, fun h s t ho hstep => ?_⟩
  · have code := code_hdrOp_toNat h
    rw [← hdrLen_toNat]
    cases hop : hdrOp h <;> rw [hop] at code <;> rw [paylen_eq h hop, ← code] <;> rfl
  · rw [step, stepBy_offered ho] at hstep
    obtain ⟨op, answered⟩ :
        ∃ op, Answered op (taken (s.ports.dinIn.drop (paylen h)) s) t := by
      split at hstep
      · exact ⟨_, exec_answered hstep⟩
      · cases hstep
        exact ⟨_, answered_raiseError (by decide) _ rfl⟩
    obtain ⟨hcmd, hdin, -⟩ := answered.inputsKept
    exact ⟨answered.idle, hcmd, hdin⟩

/-- Settles O35: a malformed header offered whole raises BadCommand on the engine whose host has sent it. -/
theorem malformedHeaderIsBadCommand : Obligations.MalformedHeaderIsBadCommand := by
  unfold Obligations.MalformedHeaderIsBadCommand
  intro h s ho hbad
  have hstep := stepBy_offered ho exec
  rw [hbad] at hstep
  exact ⟨_, hstep, raiseError_changes _ _ (by decide) _ (rspWord_badCommand h)⟩

/-- Settles O34: what decodes is offered whole, so the step runs it on what the fetch leaves. -/
theorem stepRunsTheDecodedCommand : Obligations.StepRunsTheDecodedCommand := by
  unfold Obligations.StepRunsTheDecodedCommand
  intro s h more i rest hph hserving hcmd hdecode hfit
  obtain ⟨hw, hlen, hr⟩ := of_decode_ok hdecode
  obtain ⟨rfl, rfl⟩ := Prod.mk.inj hr
  have ho : Offered Config.hw h s := ⟨hph, hserving, by rw [hcmd]; rfl, hlen, hfit⟩
  rw [step, stepBy_offered ho, if_pos hw, taken, hcmd]
  rfl

/-! ## The outcome -/

/-- Settles O28: the order of the tests in each command. -/
theorem outcomesInTheOrderOfTheTests : Obligations.OutcomesInTheOrderOfTheTests := by
  unfold Obligations.OutcomesInTheOrderOfTheTests
  refine ⟨fun pattern tag s t hexec => ?_, fun input s t hexec => ?_, fun s t hexec => ?_,
    fun s t hexec => ?_, fun h s t ho hbad hstep => ?_⟩
  · replace hexec : startWith Config.hw pattern tag s = .next t := hexec
    rcases startWith_cases Config.hw pattern tag s with
      ⟨-, hr⟩ | ⟨-, hlong, hr⟩ | ⟨-, hlen, hbad, hr⟩ | ⟨-, hlen, hall, hr⟩ <;>
      rw [hr] at hexec <;> cases hexec
    · exact (if_pos hlong).symm
    · rw [if_neg (Nat.not_lt.2 hlen), if_pos ((all_legalEntry_eq_false_iff pattern).1 hbad)]
      rfl
    · rw [if_neg (Nat.not_lt.2 hlen), if_neg]
      · rfl
      · rw [← all_legalEntry_eq_false_iff, hall]
        decide
  · replace hexec : absorbWith Config.hw input s = .next t := hexec
    rcases absorbWith_cases Config.hw input s with
      ⟨-, hr⟩ | ⟨-, he, hr⟩ | ⟨-, -, -, hr⟩ | ⟨-, he, -, hn, hr⟩ | ⟨-, he, -, hn, hr⟩ <;>
      rw [hr] at hexec <;> cases hexec
    · exact (if_pos he).symm
    · rw [if_neg he, if_pos hn]; rfl
    · rw [if_neg he, if_neg (not_not_intro hn)]; rfl
  · replace hexec : squeezeWith Config.hw s = .next t := hexec
    rcases squeezeWith_cases Config.hw s with
      ⟨he, hr⟩ | ⟨-, -, hr⟩ | ⟨he, -, hfull, hr⟩ | ⟨he, -, hroom, u, -, hr⟩ <;>
      rw [hr] at hexec <;> cases hexec
    · exact (if_pos he).symm
    · rw [if_neg he, if_pos hfull]; rfl
    · rw [if_neg he, if_neg (Nat.not_lt.2 hroom)]; rfl
  · cases hexec; rfl
  · rw [step, stepBy_offered ho, hbad] at hstep
    cases hstep
    rfl

/-! ## A turn of the I/O pattern -/

/-- `t` ends an ABSORB or a SQUEEZE taken in `s`: the pattern stands, and a success, which an exhausted
pattern does not allow, moves `io_count` on (R17, R18, R102, R112). -/
structure Turn (s t : State) : Prop where
  pat : t.arch.pat = s.arch.pat
  patternLen : t.arch.patternLen = s.arch.patternLen
  wrIdx : t.ctrl.wrIdx = s.ctrl.wrIdx
  live : t.ctrl.pend = .ok → s.arch.ioCount ≠ s.arch.patternLen
  ioCount : t.arch.ioCount = if t.ctrl.pend = .ok then s.arch.ioCount + 1 else s.arch.ioCount

theorem turn_raiseError {op : Op} (len : BitVec LEN_BITS) {c : Status} (hc : c ≠ .ok) (s : State) :
    Turn s (raiseError op len c s) where
  pat := setFault_pat c s.arch
  patternLen := setFault_patternLen c s.arch
  wrIdx := rfl
  live := fun hok => absurd hok hc
  ioCount := (setFault_ioCount c s.arch).trans (if_neg hc).symm

theorem absorbWith_turn {p : Params} {input : List Nat} {s t : State}
    (h : absorbWith p input s = .next t) : Turn s t := by
  rcases absorbWith_next h with ⟨c, hc, rfl⟩ | ⟨he, -, rfl⟩
  · exact turn_raiseError _ hc s
  · have frame := absorbElems_absorbFrame p input s
    have hwr : _ = s.ctrl.wrIdx := congrArg Ctrl.wrIdx frame.ctrl
    exact ⟨frame.pat, frame.patternLen, hwr, fun _ => he,
      congrArg (· + 1) frame.ioCount⟩

theorem squeezeWith_turn {p : Params} {s t : State} (h : squeezeWith p s = .next t) : Turn s t := by
  rcases squeezeWith_next h with ⟨c, hc, rfl⟩ | ⟨he, hroom, u, hu, rfl⟩
  · exact turn_raiseError _ hc s
  · have frame := squeezeElems_frame_of_ok hu hroom
    have hwr : _ = s.ctrl.wrIdx := congrArg Ctrl.wrIdx frame.ctrl
    exact ⟨frame.pat, frame.patternLen, hwr, fun _ => he,
      congrArg (· + 1) frame.ioCount⟩

/-- ABSORB leaves the output side (R107). -/
theorem absorbWith_out {p : Params} {input : List Nat} {s t : State}
    (h : absorbWith p input s = .next t) :
    t.arch.out = s.arch.out ∧ t.arch.outLen = s.arch.outLen ∧ t.ctrl.doutIdx = s.ctrl.doutIdx := by
  rcases absorbWith_next h with ⟨c, -, rfl⟩ | ⟨-, -, rfl⟩
  · exact ⟨setFault_out c s.arch, setFault_outLen c s.arch, rfl⟩
  · have frame := absorbElems_absorbFrame p input s
    have hdout : _ = s.ctrl.doutIdx := congrArg Ctrl.doutIdx frame.ctrl
    exact ⟨frame.out, frame.outLen, hdout⟩

/-- SQUEEZE moves `out_len` on by its entry if it succeeds (R21, R114). -/
theorem squeezeWith_outLen {p : Params} {s t : State} (h : squeezeWith p s = .next t) :
    t.arch.outLen = s.arch.outLen +
      if t.ctrl.pend = .ok then Store.read s.arch.pat s.arch.ioCount else 0 := by
  rcases squeezeWith_next h with ⟨c, hc, rfl⟩ | ⟨-, hroom, u, hu, rfl⟩
  · have hpend : (raiseError .squeeze 0 c s).ctrl.pend ≠ .ok := hc
    rw [if_neg hpend, raiseError_arch, setFault_outLen, Nat.add_zero]
  · exact (squeezeElems_frame_of_ok hu hroom).outLen

/-- SQUEEZE leaves OUT outside the elements it appends (R40, R111). -/
theorem squeezeWith_read {p : Params} {s t : State} (h : squeezeWith p s = .next t)
    (hwf : Store.wf s.arch.out = true) {i : Nat}
    (hi : ¬(s.arch.outLen ≤ i ∧ i < t.arch.outLen)) :
    Store.read t.arch.out i = Store.read s.arch.out i := by
  rcases squeezeWith_next h with ⟨c, -, rfl⟩ | ⟨-, -, u, hu, rfl⟩
  · rw [raiseError_arch, setFault_out]
  · exact (((squeezeMatches_start hwf).loop hu).read i).trans (if_neg hi)

/-- START leaves what the output stream was last at (R143). -/
theorem startWith_doutIdx {p : Params} {pattern : List Nat} {tag : Nat} {s t : State}
    (h : startWith p pattern tag s = .next t) : t.ctrl.doutIdx = s.ctrl.doutIdx := by
  rcases startWith_next h with ⟨c, wr, -, -, rfl⟩ | ⟨-, -, rfl⟩
  · rfl
  · rfl

/-- START leaves `io_count` at 0 (R18, R90, R92). -/
theorem startWith_ioCount {p : Params} {pattern : List Nat} {tag : Nat} {s t : State}
    (h : startWith p pattern tag s = .next t) : t.arch.ioCount = 0 := by
  rcases startWith_next h with ⟨c, wr, -, -, rfl⟩ | ⟨-, -, rfl⟩
  · exact setFault_ioCount c Arch.reset
  · rfl

/-- Settles O26: the ports by what every command leaves there, the rest by each command's own frame. -/
theorem commandFrames : Obligations.CommandFrames := by
  unfold Obligations.CommandFrames
  intro s t
  refine ⟨fun input hexec => ?_, fun hexec => ?_, fun pattern tag hexec => ?_, fun hexec => ?_⟩
  · have answered := exec_answered hexec
    have turn := absorbWith_turn (p := Config.hw) hexec
    obtain ⟨hout, hlen, hdout⟩ := absorbWith_out (p := Config.hw) hexec
    exact ⟨turn.pat, turn.patternLen, hout, hlen, turn.wrIdx, hdout, answered.doutOut (.inl nofun),
      answered.inputsKept⟩
  · have answered := exec_answered hexec
    have turn := squeezeWith_turn (p := Config.hw) hexec
    have hlen := squeezeWith_outLen (p := Config.hw) hexec
    exact ⟨turn.pat, turn.patternLen, hlen ▸ Nat.le_add_right _ _,
      fun hwf i hi => squeezeWith_read (p := Config.hw) hexec hwf hi, turn.wrIdx, answered.inputsKept⟩
  · have answered := exec_answered hexec
    exact ⟨startWith_doutIdx (p := Config.hw) hexec, answered.doutOut (.inl nofun),
      answered.preqOut (.inl rfl), answered.inputsKept⟩
  · have answered := exec_answered hexec
    have hdout := answered.doutOut (.inl nofun)
    have hpreq := answered.preqOut (.inr (.inl rfl))
    have hinputs := answered.inputsKept
    cases hexec
    exact ⟨rfl, rfl, rfl, hdout, hpreq, hinputs⟩

/-- Settles O27: START and FINISH clear `io_count`, as reset does, and a turn moves it by its outcome. -/
theorem ioCountMoves : Obligations.IoCountMoves := by
  unfold Obligations.IoCountMoves
  refine ⟨fun i s t hexec => ?_, fun pins s t hrst hedge => ?_⟩
  · cases i with
    | start pattern tag => exact startWith_ioCount (p := Config.hw) hexec
    | absorb input => exact (absorbWith_turn (p := Config.hw) hexec).ioCount
    | squeeze => exact (squeezeWith_turn (p := Config.hw) hexec).ioCount
    | finish => cases hexec; rfl
  · rw [clockEdge_reset hrst] at hedge
    cases hedge
    rfl

/-! ## The entries that SQUEEZE has consumed -/

/-- A START that answers has nothing in OUT (R90, R92). -/
theorem startWith_outLen {p : Params} {pattern : List Nat} {tag : Nat} {s t : State}
    (h : startWith p pattern tag s = .next t) : t.arch.outLen = 0 := by
  rcases startWith_next h with ⟨c, wr, -, -, rfl⟩ | ⟨-, -, rfl⟩
  · exact setFault_outLen c Arch.reset
  · rfl

/-- An empty accumulator sums no entry (R26). -/
theorem outLenSums_nil {a : Arch} (h : a.outLen = 0) : OutLenSums a [] := ⟨List.nil_sublist _, h⟩

/-- The sum stands when the pattern and `out_len` do and `io_count` does not fall (R26). -/
theorem outLenSums_mono {a b : Arch} {used : List Nat} (h : OutLenSums a used) (hpat : b.pat = a.pat)
    (hlen : b.outLen = a.outLen) (hio : a.ioCount ≤ b.ioCount) : OutLenSums b used := by
  obtain ⟨hsub, hsum⟩ := h
  exact ⟨hsub.trans (List.range_sublist.2 hio), by rw [hlen, hpat, hsum]⟩

/-- Settles O56: a SQUEEZE that succeeds adds its own entry, at the index that it consumes. -/
theorem outLenSumsConsumedEntries : Obligations.OutLenSumsConsumedEntries := by
  unfold Obligations.OutLenSumsConsumedEntries
  refine ⟨outLenSums_nil rfl, fun i s t used hsums hexec => ?_⟩
  cases i with
  | start pattern tag => exact outLenSums_nil (startWith_outLen (p := Config.hw) hexec)
  | absorb input =>
    have turn := absorbWith_turn (p := Config.hw) hexec
    obtain ⟨-, hlen, -⟩ := absorbWith_out (p := Config.hw) hexec
    have hio := turn.ioCount
    exact outLenSums_mono hsums turn.pat hlen (by split at hio <;> omega)
  | squeeze =>
    have turn := squeezeWith_turn (p := Config.hw) hexec
    have hlen := squeezeWith_outLen (p := Config.hw) hexec
    have hio := turn.ioCount
    show OutLenSums t.arch (if t.ctrl.pend = .ok then used ++ [s.arch.ioCount] else used)
    by_cases hok : t.ctrl.pend = .ok
    · rw [if_pos hok] at hlen hio ⊢
      obtain ⟨hsub, hsum⟩ := hsums
      refine ⟨?_, ?_⟩
      · rw [hio, List.range_succ]
        exact hsub.append (List.Sublist.refl _)
      · rw [hlen, turn.pat, List.map_append, List.sum_append, ← hsum]
        rfl
    · rw [if_neg hok] at hlen hio ⊢
      exact outLenSums_mono hsums turn.pat hlen hio.ge
  | finish => cases hexec; exact outLenSums_nil rfl

/-! ## The lifecycle -/

/-- A pattern with entries to come is Fresh before its first turn and active after it (R162). -/
theorem lifecycle_of_lt {a : Arch} (h : a.ioCount < a.patternLen) :
    lifecycle a = if a.ioCount = 0 then .fresh else .active := by
  rw [lifecycle, if_neg (by omega), if_pos h]

/-- A pattern with none to come is Done if it is empty, otherwise Exhausted (R162). -/
theorem lifecycle_of_eq {a : Arch} (h : a.ioCount = a.patternLen) :
    lifecycle a = if a.patternLen = 0 then .done else .exhausted := by
  rw [lifecycle]
  by_cases h0 : a.patternLen = 0
  · rw [if_pos h0, if_pos h0]
  · rw [if_neg h0, if_neg h0, if_neg (by omega), if_neg (by omega)]

/-- The lifecycle is seen in the two lengths (R162). -/
theorem lifecycle_congr {a b : Arch} (hlen : b.patternLen = a.patternLen) (hio : b.ioCount = a.ioCount) :
    lifecycle b = lifecycle a := by
  rw [lifecycle, lifecycle, hlen, hio]

/-- Done and Exhausted are the two conditions in which no entry is to come (R162). -/
theorem lifecycle_spent_iff {a : Arch} (hle : a.ioCount ≤ a.patternLen) :
    lifecycle a = .done ∨ lifecycle a = .exhausted ↔ a.ioCount = a.patternLen := by
  rcases Nat.lt_or_eq_of_le hle with hlt | heq
  · rw [lifecycle_of_lt hlt]
    constructor
    · split <;> simp
    · omega
  · rw [lifecycle_of_eq heq]
    refine ⟨fun _ => heq, fun _ => ?_⟩
    split <;> simp

/-- What a turn that succeeds does to the lifecycle, and that a spent engine stays as it is (R162). -/
theorem Turn.lifecycle {s t : State} (turn : Turn s t) (hle : s.arch.ioCount ≤ s.arch.patternLen)
    (hspent : s.arch.ioCount = s.arch.patternLen → t.ctrl.pend = .patternExhausted) :
    (t.ctrl.pend = .ok →
      (lifecycle s.arch = .fresh ∨ lifecycle s.arch = .active) ∧
        (lifecycle t.arch = .active ∨ lifecycle t.arch = .exhausted)) ∧
      (lifecycle s.arch = .done ∨ lifecycle s.arch = .exhausted →
        t.ctrl.pend = .patternExhausted ∧ lifecycle t.arch = lifecycle s.arch) := by
  have hio := turn.ioCount
  have hlen := turn.patternLen
  refine ⟨fun hok => ?_, fun hlife => ?_⟩
  · rw [if_pos hok] at hio
    have hlt : s.arch.ioCount < s.arch.patternLen := Nat.lt_of_le_of_ne hle (turn.live hok)
    refine ⟨?_, ?_⟩
    · rw [lifecycle_of_lt hlt]
      split <;> simp
    · rcases Nat.lt_or_eq_of_le (show t.arch.ioCount ≤ t.arch.patternLen by omega) with hlt' | heq'
      · rw [lifecycle_of_lt hlt', if_neg (by omega)]
        exact .inl rfl
      · rw [lifecycle_of_eq heq', if_neg (by omega)]
        exact .inr rfl
  · have hpend := hspent ((lifecycle_spent_iff hle).1 hlife)
    rw [if_neg (by rw [hpend]; decide)] at hio
    exact ⟨hpend, lifecycle_congr hlen hio⟩

/-- The pattern that a START leaves: its own if it succeeds, otherwise none (R90, R92). -/
theorem startWith_patternLen {p : Params} {pattern : List Nat} {tag : Nat} {s t : State}
    (h : startWith p pattern tag s = .next t) :
    t.arch.patternLen = if t.ctrl.pend = .ok then pattern.length else 0 := by
  rcases startWith_next h with ⟨c, wr, hc, -, rfl⟩ | ⟨-, -, rfl⟩
  · exact (setFault_patternLen c Arch.reset).trans (if_neg hc).symm
  · rfl

/-- Settles O57: START and FINISH by the pattern they leave, ABSORB and SQUEEZE as turns. -/
theorem lifecycleMoves : Obligations.LifecycleMoves := by
  unfold Obligations.LifecycleMoves
  intro i s t hinv hexec
  obtain ⟨-, habsorb, hsqueeze, -, -⟩ := outcomesInTheOrderOfTheTests
  refine ⟨fun pattern tag hi => ?_, fun hi => ?_, fun hop => ?_⟩
  · subst hi
    have hlen := startWith_patternLen (p := Config.hw) hexec
    have hio := startWith_ioCount (p := Config.hw) hexec
    have hpos : 0 < pattern.length ↔ pattern ≠ [] := List.length_pos_iff
    by_cases hnew : t.ctrl.pend = .ok ∧ pattern ≠ []
    · obtain ⟨hok, hne⟩ := hnew
      have := hpos.2 hne
      rw [if_pos hok] at hlen
      rw [if_pos ⟨hok, hne⟩, lifecycle_of_lt (by omega), if_pos hio]
    · have hzero : t.arch.patternLen = 0 := by
        rw [hlen]
        split
        next hok => exact Nat.eq_zero_of_not_pos fun h => hnew ⟨hok, hpos.1 h⟩
        next => rfl
      rw [if_neg hnew, lifecycle_of_eq (by omega), if_pos hzero]
  · subst hi
    cases hexec
    rfl
  · cases i with
    | start pattern tag => rcases hop with hop | hop <;> cases hop
    | absorb input =>
      exact (absorbWith_turn (p := Config.hw) hexec).lifecycle hinv.ioCount_le fun he =>
        (habsorb input s t hexec).trans (if_pos he)
    | squeeze =>
      exact (squeezeWith_turn (p := Config.hw) hexec).lifecycle hinv.ioCount_le fun he =>
        (hsqueeze s t hexec).trans (if_pos he)
    | finish => rcases hop with hop | hop <;> cases hop

end Sys2Proof.Proofs
end

section
/-! One command on two engines: the meaning of a command reads the architectural state without `fault`, so
two engines alike in it answer alike, whatever their `fault`, their hidden registers and their ports hold
(R22, R116, R183); and the worked headers of the spec. -/

namespace Sys2Proof.Proofs

open Sys2Proof Sys2Proof.Machine Sys2Proof.Laws

/-! ## The loops on another engine -/

/-- The engine `s` with another `fault`, other hidden registers and other ports, to which `asked` has been
requested. -/
def beside (f : Status) (c : Ctrl) (q : Ports) (asked : List Lanes) (s : State) : State where
  arch := { s.arch with fault := f }
  ctrl := c
  ports := { q with preqOut := q.preqOut ++ asked }

/-- Two engines alike but for `fault`, hidden registers and ports. -/
theorem eq_beside {s s' : State} (h : s'.arch = { s.arch with fault := s'.arch.fault }) :
    s' = beside s'.arch.fault s'.ctrl s'.ports [] s := by
  obtain ⟨a, c, q⟩ := s'
  simp only [beside, List.append_nil]
  exact congrArg (State.mk · c q) h

section Loops

variable (p : Params) (f : Status) (c : Ctrl) (q : Ports) {base : List Lanes}

/-- One element of ABSORB does the same on both engines, the request included (R101). -/
theorem absorbElem_beside (x : Nat) {s : State} {asked : List Lanes}
    (hasked : s.ports.preqOut = base ++ asked) :
    ∃ asked', (absorbElem p x s).ports.preqOut = base ++ asked' ∧
      absorbElem p x (beside f c q asked s) = beside f c q asked' (absorbElem p x s) := by
  have hpos : (beside f c q asked s).arch.absorbPos = s.arch.absorbPos := rfl
  rcases absorbElem_cases p x s with ⟨i, hi, hstep⟩ | ⟨hrate, hstep⟩
  · refine ⟨asked, by rw [hstep]; exact hasked, ?_⟩
    rw [hstep, absorbElem, hpos, hi]
    rfl
  · refine ⟨asked ++ [s.arch.lanes], ?_, ?_⟩
    · rw [hstep, addElem_ports, permuteForAbsorb_ports, hasked, List.append_assoc]
    · rw [hstep, absorbElem, hpos, hrate, beside, beside, ← List.append_assoc]
      rfl

theorem absorbElems_beside (xs : List Nat) {s : State} {asked : List Lanes}
    (hasked : s.ports.preqOut = base ++ asked) :
    ∃ asked', (absorbElems p xs s).ports.preqOut = base ++ asked' ∧
      absorbElems p xs (beside f c q asked s) = beside f c q asked' (absorbElems p xs s) := by
  induction xs generalizing s asked with
  | nil => exact ⟨asked, hasked, rfl⟩
  | cons x xs ih =>
    obtain ⟨asked1, hasked1, hstep⟩ := absorbElem_beside p f c q x hasked
    rw [absorbElems, absorbElems, hstep]
    exact ih hasked1

/-- One element of SQUEEZE does the same on both engines, the request included (R111). -/
theorem squeezeElem_beside {s t : State} (ht : squeezeElem p s = .ok t) {asked : List Lanes}
    (hasked : s.ports.preqOut = base ++ asked) :
    ∃ asked', t.ports.preqOut = base ++ asked' ∧
      squeezeElem p (beside f c q asked s) = .ok (beside f c q asked' t) := by
  have hpos : (beside f c q asked s).arch.squeezePos = s.arch.squeezePos := rfl
  have took {u : State} {i : Fin WIDTH} (hu : takeElem p i u = .ok t) :
      u.arch.outLen < p.outMax ∧ t = tookElem i u := by
    rw [takeElem_eq] at hu
    split at hu
    next hlt => cases hu; exact ⟨hlt, rfl⟩
    next => cases hu
  rcases squeezeElem_cases p s with ⟨i, hi, hstep⟩ | ⟨hrate, hstep⟩
  · obtain ⟨hlt, rfl⟩ := took (hstep.symm.trans ht)
    refine ⟨asked, hasked, ?_⟩
    rw [squeezeElem, hpos, hi]
    dsimp only
    rw [takeElem_eq]
    exact if_pos hlt
  · obtain ⟨hlt, rfl⟩ := took (hstep.symm.trans ht)
    refine ⟨asked ++ [s.arch.lanes], ?_, ?_⟩
    · rw [tookElem_ports, permuteForSqueeze_ports, hasked, List.append_assoc]
    · rw [squeezeElem, hpos, hrate, rateLane_sentinel]
      dsimp only
      rw [takeElem_eq]
      refine (if_pos hlt).trans ?_
      rw [beside, beside, ← List.append_assoc]
      rfl

theorem squeezeElems_beside {n : Nat} {s u : State} (hu : squeezeElems p n s = .ok u)
    {asked : List Lanes} (hasked : s.ports.preqOut = base ++ asked) :
    ∃ asked', u.ports.preqOut = base ++ asked' ∧
      squeezeElems p n (beside f c q asked s) = .ok (beside f c q asked' u) := by
  induction n generalizing s asked with
  | zero => cases hu; exact ⟨asked, hasked, rfl⟩
  | succ n ih =>
    obtain ⟨t, ht, hrest⟩ := squeezeElems_succ_ok hu
    obtain ⟨asked1, hasked1, hstep⟩ := squeezeElem_beside p f c q ht hasked
    rw [squeezeElems, hstep]
    exact ih hrest hasked1

end Loops

/-! ## The commands on another engine -/

/-- The ports with more sent on them. -/
def sentOn (rsp : List RspWord) (dout : List (Nat × Bool)) (preq : List Lanes) (q : Ports) : Ports :=
  { q with rspOut := q.rspOut ++ rsp, doutOut := q.doutOut ++ dout, preqOut := q.preqOut ++ preq }

/-- Two runs have sent the same (R116). -/
def SentAlike (s s' t t' : State) : Prop :=
  ∃ rsp dout preq, t.ports = sentOn rsp dout preq s.ports ∧ t'.ports = sentOn rsp dout preq s'.ports

/-- `t` and `t'` end one command taken in `s` and in `s'`: alike but for `fault`, with the same outcome, the
same sent, and the same hidden registers if those were the same. -/
structure SameEnd (s s' t t' : State) : Prop where
  arch : t'.arch = { t.arch with fault := t'.arch.fault }
  pend : t'.ctrl.pend = t.ctrl.pend
  ctrl : s'.ctrl = s.ctrl → t'.ctrl = t.ctrl
  sent : SentAlike s s' t t'

/-- A command that only ends, on engines alike but for `fault`. -/
theorem sameEnd_finishCommand (op : Op) (len : BitVec LEN_BITS) (st : Status) {s s' u u' : State}
    (harch : u'.arch = { u.arch with fault := u'.arch.fault }) (hctrl : s'.ctrl = s.ctrl → u'.ctrl = u.ctrl)
    {preq : List Lanes} (hports : u.ports = sentOn [] [] preq s.ports)
    (hports' : u'.ports = sentOn [] [] preq s'.ports) :
    SameEnd s s' (finishCommand op len st u) (finishCommand op len st u') where
  arch := harch
  pend := rfl
  ctrl := fun h => by rw [finishCommand_ctrl, finishCommand_ctrl, hctrl h]
  sent := ⟨[rspWord op st (rspCount op st u.arch)], [], preq, by
      rw [finishCommand_ports, hports]; simp [sentOn], by
      have hcount : rspCount op st u'.arch = rspCount op st u.arch := by
        rw [rspCount_eq, rspCount_eq, harch]
      rw [finishCommand_ports, hports', hcount]; simp [sentOn]⟩

/-- Nothing sent. -/
theorem eq_sentOn_nil (q : Ports) : q = sentOn [] [] [] q := by simp [sentOn]

/-- `set_fault` on engines alike but for `fault`. -/
theorem setFault_alike (c : Status) {a a' : Arch} (h : a' = { a with fault := a'.fault }) :
    setFault c a' = { setFault c a with fault := (setFault c a').fault } := by
  rw [setFault_arch_eq c a, setFault_arch_eq c a', h]

theorem sameEnd_raiseError (op : Op) (len : BitVec LEN_BITS) (c : Status) {s s' : State}
    (harch : s'.arch = { s.arch with fault := s'.arch.fault }) :
    SameEnd s s' (raiseError op len c s) (raiseError op len c s') :=
  sameEnd_finishCommand op len c (setFault_alike c harch) id (eq_sentOn_nil _) (eq_sentOn_nil _)

/-- The output stream is read off the accumulator (R72). -/
theorem sameEnd_streamOut {s s' t t' : State} (ends : SameEnd s s' t t') :
    SameEnd s s' (streamOut t) (streamOut t') := by
  obtain ⟨rsp, dout, preq, hports, hports'⟩ := ends.sent
  have hlen : t'.arch.outLen = t.arch.outLen := by rw [ends.arch]
  have hwords : outWords t'.arch 0 t'.arch.outLen = outWords t.arch 0 t.arch.outLen := by
    rw [hlen, outWords_eq, outWords_eq, ends.arch]
  refine ⟨ends.arch, ends.pend, fun h => ?_, rsp, dout ++ outWords t.arch 0 t.arch.outLen, preq, ?_, ?_⟩
  · rw [streamOut_ctrl, streamOut_ctrl, ends.ctrl h, hlen]
  · rw [streamOut_ports, hports]
    simp [sentOn]
  · rw [streamOut_ports, hports', hwords]
    simp [sentOn]

section Commands

variable {p : Params} {s t : State}

/-- START ends alike on any two engines: its first act clears them (R93). -/
theorem startWith_sameEnd {pattern : List Nat} {tag : Nat} (h : startWith p pattern tag s = .next t)
    (s' : State) : ∃ t', startWith p pattern tag s' = .next t' ∧ SameEnd s s' t t' := by
  have hwr : s'.ctrl = s.ctrl → ∀ n, ({ s'.ctrl with wrIdx := n } : Ctrl) = { s.ctrl with wrIdx := n } :=
    fun h n => by rw [h]
  rw [startWith_eq] at h ⊢
  cases hc : canonicalWord p tag with
  | false => rw [hc] at h; cases h
  | true =>
    rw [hc] at h
    cases h
    refine ⟨_, rfl, ?_⟩
    unfold startOn
    split
    · exact sameEnd_finishCommand _ _ _ rfl (fun h => hwr h _) (eq_sentOn_nil _) (eq_sentOn_nil _)
    · split
      · exact sameEnd_finishCommand _ _ _ rfl (fun h => hwr h _) (eq_sentOn_nil _) (eq_sentOn_nil _)
      · exact sameEnd_finishCommand _ _ _ rfl (fun h => hwr h _) (eq_sentOn_nil _) (eq_sentOn_nil _)

/-- What a loop that only asks has sent, on either engine. -/
theorem ports_eq_sentOn {u : State} {asked preq : List Lanes}
    (hports : u.ports = { s.ports with preqOut := s.ports.preqOut ++ preq })
    (hasked : u.ports.preqOut = s.ports.preqOut ++ asked) : u.ports = sentOn [] [] asked s.ports := by
  have hpreq : preq = asked := by
    rw [hports] at hasked
    exact List.append_cancel_left hasked
  rw [hports, hpreq]
  simp [sentOn]

theorem beside_ports_eq_sentOn (f : Status) (c : Ctrl) (q : Ports) (asked : List Lanes) (u : State) :
    (beside f c q asked u).ports = sentOn [] [] asked (beside f c q [] s).ports := by
  simp [sentOn, beside]

variable (f : Status) (c : Ctrl) (q : Ports)

theorem absorbWith_beside {input : List Nat} (h : absorbWith p input s = .next t) :
    ∃ t', absorbWith p input (beside f c q [] s) = .next t' ∧ SameEnd s (beside f c q [] s) t t' := by
  rcases absorbWith_cases p input s with
    ⟨-, hr⟩ | ⟨hc, he, hr⟩ | ⟨-, -, -, hr⟩ | ⟨hc, he, hi, hn, hr⟩ | ⟨hc, he, hi, hn, hr⟩ <;>
    rw [hr] at h <;> cases h
  · have hrun := absorbWith_exhausted p input (s := beside f c q [] s) he
    rw [hc] at hrun
    exact ⟨_, hrun, sameEnd_raiseError _ _ _ rfl⟩
  · have hrun := absorbWith_mismatch (s := beside f c q [] s) he hi hn
    rw [hc] at hrun
    exact ⟨_, hrun, sameEnd_raiseError _ _ _ rfl⟩
  · have hrun := absorbWith_match (s := beside f c q [] s) he hi hn
    obtain ⟨asked, hasked, hloop⟩ := absorbElems_beside p f c q input
      (base := s.ports.preqOut) (s := s) (asked := []) (List.append_nil _).symm
    rw [hc, hloop] at hrun
    have frame := absorbElems_absorbFrame p input s
    obtain ⟨preq, hports⟩ := frame.ports
    refine ⟨_, hrun, sameEnd_finishCommand _ _ _ rfl (fun h => ?_) (ports_eq_sentOn hports hasked)
      (beside_ports_eq_sentOn f c q asked (absorbElems p input s))⟩
    exact h.trans frame.ctrl.symm

theorem squeezeWith_beside (h : squeezeWith p s = .next t) :
    ∃ t', squeezeWith p (beside f c q [] s) = .next t' ∧ SameEnd s (beside f c q [] s) t t' := by
  rcases squeezeWith_cases p s with
    ⟨he, hr⟩ | ⟨-, -, hr⟩ | ⟨he, hi, hfull, hr⟩ | ⟨he, hi, hroom, u, hu, hr⟩ <;>
    rw [hr] at h <;> cases h
  · exact ⟨_, squeezeWith_exhausted (s := beside f c q [] s) he, sameEnd_raiseError _ _ _ rfl⟩
  · exact ⟨_, squeezeWith_full (s := beside f c q [] s) he hi hfull, sameEnd_raiseError _ _ _ rfl⟩
  · obtain ⟨u', hu', hrun⟩ := squeezeWith_of_room (s := beside f c q [] s) he hi hroom
    obtain ⟨asked, hasked, hloop⟩ := squeezeElems_beside p f c q hu (base := s.ports.preqOut)
      (asked := []) (List.append_nil _).symm
    obtain rfl := Except.ok.inj (hloop.symm.trans hu')
    have frame := squeezeElems_frame_of_ok hu hroom
    obtain ⟨preq, hports⟩ := frame.ports
    have ends := sameEnd_finishCommand .squeeze 0 .ok (s := s) (s' := beside f c q [] s)
      (u := squeezeDone u) (u' := squeezeDone (beside f c q asked u)) rfl
      (fun h => h.trans frame.ctrl.symm) (ports_eq_sentOn hports hasked)
      (beside_ports_eq_sentOn f c q asked u)
    exact ⟨_, hrun, sameEnd_streamOut ends⟩

end Commands

/-- What a command does on one engine it does on any that is alike but for `fault`. -/
theorem exec_sameEnd {i : Instr} {s s' t : State} (harch : s'.arch = { s.arch with fault := s'.arch.fault })
    (h : exec i s = .next t) : ∃ t', exec i s' = .next t' ∧ SameEnd s s' t t' := by
  rw [eq_beside harch]
  cases i with
  | start pattern tag => exact startWith_sameEnd (p := Config.hw) h _
  | absorb input => exact absorbWith_beside (p := Config.hw) _ _ _ h
  | squeeze => exact squeezeWith_beside (p := Config.hw) _ _ _ h
  | finish =>
    cases h
    exact ⟨_, rfl, sameEnd_finishCommand _ _ _ rfl id (eq_sentOn_nil _) (eq_sentOn_nil _)⟩

/-- Settles O32: the engine with another `fault` is alike, with the same hidden registers and ports. -/
theorem faultGatesNothing : Obligations.FaultGatesNothing := by
  unfold Obligations.FaultGatesNothing
  intro i s t f hexec
  obtain ⟨t', ht', ends⟩ := exec_sameEnd (s' := withFault f s) rfl hexec
  obtain ⟨rsp, dout, preq, hports, hports'⟩ := ends.sent
  exact ⟨t', ht', ends.arch, ends.ctrl rfl, hports'.trans hports.symm⟩

/-! ## Transcripts -/

/-- The same `fault` before, and the same outcome, leave the same `fault` (R181). -/
theorem SameEnd.arch_eq {i : Instr} {s s' t t' : State} (ends : SameEnd s s' t t')
    (htested : testedArch i s' = testedArch i s) (h : exec i s = .next t) (h' : exec i s' = .next t') :
    t'.arch = t.arch := by
  have hfault : t'.arch.fault = t.arch.fault := by
    rw [(exec_recordsOutcome h').fault_eq, (exec_recordsOutcome h).fault_eq, htested, ends.pend]
  rw [ends.arch, hfault]

theorem sentOn_sentOn (rsp rsp' : List RspWord) (dout dout' : List (Nat × Bool))
    (preq preq' : List Lanes) (q : Ports) :
    sentOn rsp' dout' preq' (sentOn rsp dout preq q) =
      sentOn (rsp ++ rsp') (dout ++ dout') (preq ++ preq') q := by
  simp [sentOn]

theorem SentAlike.trans {s s' t t' u u' : State} (h : SentAlike s s' t t') (h' : SentAlike t t' u u') :
    SentAlike s s' u u' := by
  obtain ⟨rsp, dout, preq, ht, ht'⟩ := h
  obtain ⟨rsp1, dout1, preq1, hu, hu'⟩ := h'
  exact ⟨rsp ++ rsp1, dout ++ dout1, preq ++ preq1, by rw [hu, ht, sentOn_sentOn],
    by rw [hu', ht', sentOn_sentOn]⟩

/-- A run of commands begins with the first. -/
theorem execAll_cons_next {i : Instr} {cmds : List Instr} {s t : State}
    (h : execAll Config.hw (i :: cmds) s = .next t) :
    ∃ m, exec i s = .next m ∧ execAll Config.hw cmds m = .next t := by
  rw [exec_eq_execWith]
  unfold execAll at h
  split at h
  next m hm => exact ⟨m, hm, h⟩
  next => cases h
  next => cases h

theorem execAll_cons_of_next {i : Instr} {s m : State} (h : exec i s = .next m) (cmds : List Instr) :
    execAll Config.hw (i :: cmds) s = execAll Config.hw cmds m := by
  rw [exec_eq_execWith] at h
  rw [execAll, h]

/-- The same commands on two engines alike run alike, and send the same (R116, R183). -/
theorem execAll_alike (cmds : List Instr) {s s' t : State} (harch : s'.arch = s.arch)
    (h : execAll Config.hw cmds s = .next t) :
    ∃ t', execAll Config.hw cmds s' = .next t' ∧ t'.arch = t.arch ∧ SentAlike s s' t t' := by
  induction cmds generalizing s s' with
  | nil => cases h; exact ⟨s', rfl, harch, [], [], [], eq_sentOn_nil _, eq_sentOn_nil _⟩
  | cons i cmds ih =>
    obtain ⟨m, hm, hrest⟩ := execAll_cons_next h
    obtain ⟨m', hm', ends⟩ := exec_sameEnd (s' := s') (by rw [harch]) hm
    have htested : testedArch i s' = testedArch i s := by rw [testedArch, harch, testedArch]
    obtain ⟨t', ht', harch', hsent⟩ := ih (ends.arch_eq htested hm hm') hrest
    exact ⟨t', (execAll_cons_of_next hm' cmds).trans ht', harch', ends.sent.trans hsent⟩

/-- Settles O58: START leaves any two engines alike, and the commands after it keep them so. -/
theorem transcriptsAreDeterministic : Obligations.TranscriptsAreDeterministic := by
  unfold Obligations.TranscriptsAreDeterministic
  intro pattern tag cmds s s' t hrun
  obtain ⟨m, hm, hrest⟩ := execAll_cons_next hrun
  obtain ⟨m', hm', ends⟩ := startWith_sameEnd (p := Config.hw) hm s'
  have htested : testedArch (.start pattern tag) s' = testedArch (.start pattern tag) s := rfl
  obtain ⟨t', ht', harch, hsent⟩ := execAll_alike cmds (ends.arch_eq htested hm hm') hrest
  obtain ⟨rsp, dout, preq, hports, hports'⟩ := ends.sent.trans hsent
  have hstart : exec (.start pattern tag) s' = .next m' := hm'
  refine ⟨t', rsp, dout, preq, (execAll_cons_of_next hstart cmds).trans ht', harch, ?_⟩
  rw [hports, hports']
  exact ⟨rfl, rfl, rfl, rfl, rfl, rfl⟩

/-! ## Worked headers -/

/-- Settles O1: each header evaluated; a START of 65535 entries by its fields, its payload being short. -/
theorem workedHeadersDecode : Obligations.WorkedHeadersDecode := by
  unfold Obligations.WorkedHeadersDecode
  have wellFormed : hdrWellFormed 0x00FFFF00#32 = true := by decide
  have announced : paylen 0x00FFFF00#32 = 65536 := by rfl
  have short : decode 0x00FFFF00#32 [] = .error .payloadShort :=
    decode_short wellFormed (by rw [announced]; decide)
  exact ⟨rfl, rfl, rfl, rfl, rfl, rfl, rfl, rfl, rfl, rfl, rfl, ⟨wellFormed, rfl, rfl, short⟩,
    ⟨rfl, rfl, rfl⟩, rfl⟩

end Sys2Proof.Proofs
end

section
/-! The hidden registers that are dead (R24): in IDLE all of them, `wr_idx` outside START_PAT, `dout_idx`
outside DOUT. Two states alike but for dead registers stay so over every edge and every step. -/

namespace Sys2Proof.Proofs

open Sys2Proof Sys2Proof.Machine Sys2Proof.Laws

/-- The state with other hidden indices (R141). -/
def withIdx (wr dout : Nat) (s : State) : State :=
  { s with ctrl := { s.ctrl with wrIdx := wr, doutIdx := dout } }

/-- The second state is the first but for dead registers (R24). -/
inductive Alike : State → State → Prop where
  | idle (s : State) (c : Ctrl) (hs : s.ctrl.phase = .idle) (hc : c.phase = .idle) :
    Alike s (withCtrl c s)
  | running (s : State) (wr dout : Nat) (hwr : s.ctrl.phase = .startPat → wr = s.ctrl.wrIdx)
    (hdout : s.ctrl.phase = .dout → dout = s.ctrl.doutIdx) : Alike s (withIdx wr dout s)

theorem alike_refl (s : State) : Alike s s :=
  .running s s.ctrl.wrIdx s.ctrl.doutIdx (fun _ => rfl) (fun _ => rfl)

/-- Where neither index is read, both are dead. -/
theorem alike_withIdx {t : State} (hpat : t.ctrl.phase ≠ .startPat) (hdout : t.ctrl.phase ≠ .dout)
    (wr dout : Nat) : Alike t (withIdx wr dout t) :=
  .running t wr dout (fun h => absurd h hpat) (fun h => absurd h hdout)

section Registers

variable {s s' : State} (h : Alike s s')

include h

theorem Alike.arch : s'.arch = s.arch := by cases h <;> rfl

theorem Alike.ports : s'.ports = s.ports := by cases h <;> rfl

theorem Alike.phase : s'.ctrl.phase = s.ctrl.phase := by
  cases h with
  | idle c hs hc => exact hc.trans hs.symm
  | running wr dout => rfl

/-- The registers of a running command are live (R141). -/
theorem Alike.command (hrun : s.ctrl.phase ≠ .idle) :
    s'.ctrl.curOp = s.ctrl.curOp ∧ s'.ctrl.curLen = s.ctrl.curLen ∧ s'.ctrl.rem = s.ctrl.rem ∧
      s'.ctrl.pend = s.ctrl.pend := by
  cases h with
  | idle c hs hc => exact absurd hs hrun
  | running wr dout => exact ⟨rfl, rfl, rfl, rfl⟩

end Registers

/-- An answer of the first is followed by an answer of the second that is alike. -/
def Follows (r r' : Result) : Prop := ∀ t, r = .next t → ∃ t', r' = .next t' ∧ Alike t t'

theorem follows_next {t t' : State} (h : Alike t t') : Follows (.next t) (.next t') := by
  rintro u ⟨⟩
  exact ⟨t', rfl, h⟩

theorem follows_fault (f : Fault) (r : Result) : Follows (.fault f) r := fun _ h => by cases h

theorem follows_refused (x : Refusal) (r : Result) : Follows (.refused x) r := fun _ h => by cases h

/-- An offer that is absent leaves both (R61). -/
theorem follows_elim {α : Type} {s s' : State} (hs : Alike s s') (o : Option α) {f f' : α → Result}
    (hf : ∀ a, Follows (f a) (f' a)) : Follows (o.elim (.next s) f) (o.elim (.next s') f') := by
  cases o with
  | none => exact follows_next hs
  | some a => exact hf a

/-! ## The micro-steps -/

theorem withIdx_arch (wr dout : Nat) (s : State) : (withIdx wr dout s).arch = s.arch := rfl

theorem withIdx_curLen (wr dout : Nat) (s : State) :
    (withIdx wr dout s).ctrl.curLen = s.ctrl.curLen := rfl

theorem withIdx_rem (wr dout : Nat) (s : State) : (withIdx wr dout s).ctrl.rem = s.ctrl.rem := rfl

theorem withIdx_wrIdx (wr dout : Nat) (s : State) : (withIdx wr dout s).ctrl.wrIdx = wr := rfl

theorem withIdx_doutIdx (wr dout : Nat) (s : State) : (withIdx wr dout s).ctrl.doutIdx = dout := rfl

theorem withIdx_curOp (wr dout : Nat) (s : State) : (withIdx wr dout s).ctrl.curOp = s.ctrl.curOp := rfl

theorem withIdx_pend (wr dout : Nat) (s : State) : (withIdx wr dout s).ctrl.pend = s.ctrl.pend := rfl

/-- A micro-step that carries the indices along, into a phase that reads neither. -/
theorem follows_withIdx {t : State} (hpat : t.ctrl.phase ≠ .startPat) (hdout : t.ctrl.phase ≠ .dout)
    (wr dout : Nat) : Follows (.next t) (.next (withIdx wr dout t)) :=
  follows_next (alike_withIdx hpat hdout wr dout)

/-- The pattern word at `wr_idx` (R144): BadPattern, or written where PAT has the index. -/
theorem takeEntry_illegal {p : Params} {w : Nat} (hw : legalEntry w = false) (s : State) :
    takeEntry p w s = .next (clearPat (errorTo .badPattern .drain s)) := by
  rw [takeEntry, hw]
  rfl

theorem takeEntry_legal {p : Params} {w : Nat} (hw : legalEntry w = true) (s : State) :
    takeEntry p w s =
      if s.ctrl.wrIdx < p.patternMax then
        .next (nextEntry { s.arch with pat := Store.write s.arch.pat s.ctrl.wrIdx w } s)
      else .fault .patIndex := by
  unfold takeEntry patWrite
  rw [hw]
  by_cases hidx : s.ctrl.wrIdx < p.patternMax
  · rw [if_pos hidx, if_pos hidx]
    rfl
  · rw [if_neg hidx, if_neg hidx]
    rfl

section MicroSteps

variable (p : Params) (wr dout : Nat) (s : State)

/-! Acceptance reads no index, and what begins reads none (R142). -/

theorem acceptAbsorb_follows :
    Follows (acceptAbsorb p s) (acceptAbsorb p (withIdx wr dout s)) := by
  unfold acceptAbsorb
  rw [withIdx_arch, withIdx_curLen]
  by_cases he : s.arch.ioCount = s.arch.patternLen
  · rw [if_pos he, if_pos he]
    exact follows_withIdx (t := errorTo .patternExhausted .drain s) nofun nofun wr dout
  · rw [if_neg he, if_neg he]
    cases patRead p s.arch s.arch.ioCount with
    | error f => exact follows_fault f _
    | ok n =>
      dsimp only
      by_cases hn : n ≠ s.ctrl.curLen.toNat
      · rw [if_pos hn, if_pos hn]
        exact follows_withIdx (t := errorTo .patternMismatch .drain s) nofun nofun wr dout
      · rw [if_neg hn, if_neg hn]
        exact follows_withIdx (t := goto .absElem s) nofun nofun wr dout

theorem acceptSqueeze_follows :
    Follows (acceptSqueeze p s) (acceptSqueeze p (withIdx wr dout s)) := by
  unfold acceptSqueeze
  rw [withIdx_arch]
  by_cases he : s.arch.ioCount = s.arch.patternLen
  · rw [if_pos he, if_pos he]
    exact follows_withIdx (t := errorTo .patternExhausted .resp s) nofun nofun wr dout
  · rw [if_neg he, if_neg he]
    cases patRead p s.arch s.arch.ioCount with
    | error f => exact follows_fault f _
    | ok n =>
      dsimp only
      by_cases hn : p.outMax < s.arch.outLen + n
      · rw [if_pos hn, if_pos hn]
        exact follows_withIdx (t := errorTo .capacity .resp s) nofun nofun wr dout
      · rw [if_neg hn, if_neg hn]
        exact follows_withIdx (t := goto .sqzElem { s with ctrl := { s.ctrl with rem := n } })
          nofun nofun wr dout

theorem beginCommand_follows (h : Header) :
    Follows (beginCommand p h s) (beginCommand p h (withIdx wr dout s)) := by
  unfold beginCommand
  cases hdrWellFormed h with
  | false => exact follows_withIdx (t := errorTo .badCommand .drain s) nofun nofun wr dout
  | true =>
    cases hdrOp h with
    | start => exact follows_withIdx (t := goto .startClr s) nofun nofun wr dout
    | absorb => exact acceptAbsorb_follows p wr dout s
    | squeeze => exact acceptSqueeze_follows p wr dout s
    | finish => exact follows_withIdx (t := goto .finClr s) nofun nofun wr dout

/-- START_CLR sets `wr_idx` (R143). -/
theorem startClrStep_alike : Alike (startClrStep p s) (startClrStep p (withIdx wr dout s)) := by
  have hclear : startClear (withIdx wr dout s) = withIdx 0 dout (startClear s) := rfl
  rw [startClrStep, startClrStep, hclear]
  unfold startCheck
  rw [withIdx_curLen]
  split
  · exact alike_withIdx (t := errorTo .capacity .drain (startClear s)) nofun nofun 0 dout
  · split
    · exact alike_withIdx (t := goto .startTag (startClear s)) nofun nofun 0 dout
    · exact .running (goto .startPat (startClear s)) 0 dout (fun _ => rfl) nofun

/-- START_PAT writes at `wr_idx` and moves it on (R144). -/
theorem startPatStep_follows (w : Nat) :
    Follows (startPatStep p w s) (startPatStep p w (withIdx s.ctrl.wrIdx dout s)) := by
  have hcount : countWord (withIdx s.ctrl.wrIdx dout s) = withIdx s.ctrl.wrIdx dout (countWord s) := rfl
  rw [startPatStep, startPatStep, hcount]
  cases hw : legalEntry w with
  | false =>
    rw [takeEntry_illegal hw, takeEntry_illegal hw]
    exact follows_withIdx (t := clearPat (errorTo .badPattern .drain (countWord s))) nofun nofun _ dout
  | true =>
    rw [takeEntry_legal hw, takeEntry_legal hw, withIdx_arch, withIdx_wrIdx, countWord_ctrl]
    by_cases hidx : s.ctrl.wrIdx < p.patternMax
    · rw [if_pos hidx, if_pos hidx]
      refine follows_next (.running (nextEntry _ (countWord s)) (s.ctrl.wrIdx + 1) dout
        (fun _ => rfl) fun hph => ?_)
      rw [nextEntry_ctrl] at hph
      dsimp only at hph
      split at hph <;> cases hph
    · rw [if_neg hidx]
      exact follows_fault _ _

/-- The end of a loop is seen in `rem` (R146). -/
theorem absElemStep_alike (i : Fin WIDTH) (w : Nat) (hph : s.ctrl.phase = .absElem) :
    Alike (absElemStep p i w s) (absElemStep p i w (withIdx wr dout s)) := by
  have hcount : countWord (addElem p i w (withIdx wr dout s)) =
      withIdx wr dout (countWord (addElem p i w s)) := rfl
  have hphase : (countWord (addElem p i w s)).ctrl.phase = .absElem := hph
  rw [absElemStep, absElemStep, hcount]
  unfold absorbNext
  rw [withIdx_rem]
  split
  · exact alike_withIdx (t := goto .resp (absorbDone (countWord (addElem p i w s)))) nofun nofun wr dout
  · exact alike_withIdx (by rw [hphase]; decide) (by rw [hphase]; decide) wr dout

/-- The end of a loop is seen in `rem` (R147). -/
theorem sqzElemStep_follows (i : Fin WIDTH) (hph : s.ctrl.phase = .sqzElem) :
    Follows (sqzElemStep p i s) (sqzElemStep p i (withIdx wr dout s)) := by
  unfold sqzElemStep
  rw [takeElem_eq, takeElem_eq, withIdx_arch]
  by_cases hroom : s.arch.outLen < p.outMax
  · rw [if_pos hroom, if_pos hroom]
    have hcount : countWord (tookElem i (withIdx wr dout s)) =
        withIdx wr dout (countWord (tookElem i s)) := rfl
    have hphase : (countWord (tookElem i s)).ctrl.phase = .sqzElem := hph
    dsimp only
    rw [hcount]
    unfold squeezeNext
    rw [withIdx_rem]
    refine follows_next ?_
    split
    · exact alike_withIdx (t := goto .resp (squeezeDone (countWord (tookElem i s)))) nofun nofun wr dout
    · exact alike_withIdx (by rw [hphase]; decide) (by rw [hphase]; decide) wr dout
  · rw [if_neg hroom]
    exact follows_fault _ _

/-- The answer is written back by `cur_op` (R150). -/
theorem permWaitStep_follows (l : Lanes) (hph : s.ctrl.phase = .permWait) :
    Follows (permWaitStep p l s) (permWaitStep p l (withIdx wr dout s)) := by
  unfold permWaitStep
  cases canonicalLanes p l with
  | false => exact follows_refused _ _
  | true =>
    have hunit : setUnit none (withIdx wr dout s) = withIdx wr dout (setUnit none s) := rfl
    have hphase : (setUnit none s).ctrl.phase = .permWait := hph
    refine follows_next ?_
    rw [hunit]
    generalize setUnit none s = u at hphase
    unfold writeBack
    rw [withIdx_curOp]
    cases u.ctrl.curOp with
    | absorb =>
      exact alike_withIdx (t := goto .absElem { u with arch := { u.arch with lanes := l, absorbPos := 0 } })
        nofun nofun wr dout
    | squeeze =>
      exact alike_withIdx
        (t := goto .sqzElem { u with arch := { u.arch with lanes := l, squeezePos := 0, absorbPos := 0 } })
        nofun nofun wr dout
    | start =>
      exact alike_withIdx (t := { u with arch := { u.arch with lanes := l } })
        (by rw [hphase]; decide) (by rw [hphase]; decide) wr dout
    | finish =>
      exact alike_withIdx (t := { u with arch := { u.arch with lanes := l } })
        (by rw [hphase]; decide) (by rw [hphase]; decide) wr dout

/-- RESP goes to DOUT with `dout_idx` set (R153). -/
theorem respStep_alike : Alike (respStep s) (respStep (withIdx wr dout s)) := by
  have hsent : sendResponse s.ctrl.curOp s.ctrl.pend (withIdx wr dout s) =
      withIdx wr dout (sendResponse s.ctrl.curOp s.ctrl.pend s) := rfl
  rw [respStep, respStep, withIdx_curOp, withIdx_pend, hsent]
  generalize sendResponse s.ctrl.curOp s.ctrl.pend s = u
  unfold afterResponse
  rw [withIdx_curOp, withIdx_pend]
  split
  · exact .running (goto .dout { u with ctrl := { u.ctrl with doutIdx := 0 } }) wr 0 nofun fun _ => rfl
  · exact alike_withIdx (t := goto .idle u) nofun nofun wr dout

/-- After an element `dout_idx` moves on, or the command has ended (R154). -/
theorem afterElem_alike (hph : s.ctrl.phase = .dout) :
    Alike (afterElem s) (afterElem (withIdx wr s.ctrl.doutIdx s)) := by
  unfold afterElem
  rw [withIdx_arch, withIdx_doutIdx]
  split
  · exact alike_withIdx (t := goto .idle s) nofun nofun wr _
  · refine .running { s with ctrl := { s.ctrl with doutIdx := s.ctrl.doutIdx + 1 } } wr
      (s.ctrl.doutIdx + 1) (fun h => ?_) fun _ => rfl
    exact absurd (hph.symm.trans h) (by decide)

/-- DOUT sends at `dout_idx` (R154). -/
theorem doutStep_follows (hph : s.ctrl.phase = .dout) :
    Follows (doutStep p s) (doutStep p (withIdx wr s.ctrl.doutIdx s)) := by
  unfold doutStep
  rw [withIdx_doutIdx, withIdx_arch]
  cases outRead p s.arch s.ctrl.doutIdx with
  | error f => exact follows_fault f _
  | ok v => exact follows_next (afterElem_alike wr (sendElem v _ s) hph)

/-- The DIN transfer, the indices carried along (R144 to R146, R152). -/
theorem dinStep_follows (w : Nat) (hwr : s.ctrl.phase = .startPat → wr = s.ctrl.wrIdx)
    (hlane : s.ctrl.phase = .absElem → s.arch.absorbPos ≠ sentinel)
    (hph : s.ctrl.phase = .startPat ∨ s.ctrl.phase = .startTag ∨ s.ctrl.phase = .absElem ∨
      s.ctrl.phase = .drain) :
    Follows (dinStep p w s) (dinStep p w (withIdx wr dout s)) := by
  cases hw : wordInContract p s.ctrl w with
  | false => rw [dinStep_refused hw]; exact follows_refused _ _
  | true =>
    have hw' : wordInContract p (withIdx wr dout s).ctrl w = true := hw
    rcases hph with hph | hph | hph | hph
    · obtain rfl := hwr hph
      rw [dinStep_startPat hw hph, dinStep_startPat hw' hph]
      exact startPatStep_follows p dout s w
    · rw [dinStep_startTag hw hph, dinStep_startTag hw' hph]
      exact follows_withIdx (t := startTagStep w s) nofun nofun wr dout
    · rcases rateLane_cases s.arch.absorbPos with ⟨i, hi, -⟩ | ⟨-, hrate⟩
      · rw [dinStep_absElem hw hph hi, dinStep_absElem hw' hph hi]
        exact follows_next (absElemStep_alike p wr dout s i w hph)
      · exact absurd hrate (hlane hph)
    · rw [dinStep_drain hw hph, dinStep_drain hw' hph]
      have hphase : (countWord s).ctrl.phase = .drain := hph
      exact follows_withIdx (t := countWord s) (by rw [hphase]; decide) (by rw [hphase]; decide) wr dout

end MicroSteps

/-! ## Edges -/

/-- An edge of a running command, the indices that are dead exchanged (R140 to R154). -/
theorem clockEdge_withIdx {p : Params} (pins : Pins p) (s : State) (wr dout : Nat)
    (hwr : s.ctrl.phase = .startPat → wr = s.ctrl.wrIdx)
    (hdout : s.ctrl.phase = .dout → dout = s.ctrl.doutIdx) :
    Follows (clockEdge p pins s) (clockEdge p pins (withIdx wr dout s)) := by
  have stays : Alike s (withIdx wr dout s) := .running s wr dout hwr hdout
  have hphase : (withIdx wr dout s).ctrl.phase = s.ctrl.phase := rfl
  cases hrst : pins.rst with
  | true =>
    rw [clockEdge_reset hrst, clockEdge_reset hrst]
    exact follows_next (alike_refl (resetBlock s))
  | false =>
    cases hph : s.ctrl.phase <;> rw [hph] at hphase
    case idle =>
      rw [clockEdge_idle hrst hph, clockEdge_idle hrst hphase]
      exact follows_elim stays _ fun h => beginCommand_follows p wr dout (acceptHeader h s) h
    case startClr =>
      rw [clockEdge_startClr hrst hph, clockEdge_startClr hrst hphase]
      exact follows_next (startClrStep_alike p wr dout s)
    case startPat =>
      rw [clockEdge_startPat hrst hph, clockEdge_startPat hrst hphase]
      exact follows_elim stays _ fun w => dinStep_follows p wr dout s w.toNat hwr
        (fun h => absurd (hph.symm.trans h) (by decide)) (.inl hph)
    case startTag =>
      rw [clockEdge_startTag hrst hph, clockEdge_startTag hrst hphase]
      exact follows_elim stays _ fun w => dinStep_follows p wr dout s w.toNat hwr
        (fun h => absurd (hph.symm.trans h) (by decide)) (.inr (.inl hph))
    case absElem =>
      rcases rateLane_cases s.arch.absorbPos with ⟨i, hi, -⟩ | ⟨-, hrate⟩
      · rw [clockEdge_absElem_lane hrst hph hi,
          clockEdge_absElem_lane (s := withIdx wr dout s) hrst hphase hi]
        exact follows_elim stays _ fun w => dinStep_follows p wr dout s w.toNat hwr
          (fun _ => ne_sentinel_of_rateLane hi) (.inr (.inr (.inl hph)))
      · rw [clockEdge_absElem_rate hrst hph hrate,
          clockEdge_absElem_rate (s := withIdx wr dout s) hrst hphase hrate]
        exact follows_withIdx (t := goto .permReq s) nofun nofun wr dout
    case sqzElem =>
      rcases rateLane_cases s.arch.squeezePos with ⟨i, hi, -⟩ | ⟨-, hrate⟩
      · rw [clockEdge_sqzElem_lane hrst hph hi,
          clockEdge_sqzElem_lane (s := withIdx wr dout s) hrst hphase hi]
        exact sqzElemStep_follows p wr dout s i hph
      · rw [clockEdge_sqzElem_rate hrst hph hrate,
          clockEdge_sqzElem_rate (s := withIdx wr dout s) hrst hphase hrate]
        exact follows_withIdx (t := goto .permReq s) nofun nofun wr dout
    case permReq =>
      rw [clockEdge_permReq hrst hph, clockEdge_permReq hrst hphase]
      cases pins.preqReady with
      | true => exact follows_withIdx (t := permReqStep s) nofun nofun wr dout
      | false => exact follows_next stays
    case permWait =>
      rw [clockEdge_permWait_elim hrst hph, clockEdge_permWait_elim hrst hphase]
      exact follows_elim stays _ fun v => permWaitStep_follows p wr dout s (unpackLanes p v) hph
    case finClr =>
      rw [clockEdge_finClr hrst hph, clockEdge_finClr hrst hphase]
      exact follows_withIdx (t := finClrStep s) nofun nofun wr dout
    case drain =>
      by_cases hrem : s.ctrl.rem = 0
      · rw [clockEdge_drain_end hrst hph hrem,
          clockEdge_drain_end (s := withIdx wr dout s) hrst hphase hrem]
        exact follows_withIdx (t := goto .resp s) nofun nofun wr dout
      · rw [clockEdge_drain_word hrst hph hrem,
          clockEdge_drain_word (s := withIdx wr dout s) hrst hphase hrem]
        exact follows_elim stays _ fun w => dinStep_follows p wr dout s w.toNat hwr
          (fun h => absurd (hph.symm.trans h) (by decide)) (.inr (.inr (.inr hph)))
    case resp =>
      rw [clockEdge_resp hrst hph, clockEdge_resp hrst hphase]
      cases pins.rspReady with
      | true => exact follows_next (respStep_alike wr dout s)
      | false => exact follows_next stays
    case dout =>
      rw [clockEdge_dout hrst hph, clockEdge_dout hrst hphase]
      obtain rfl := hdout hph
      cases pins.doutReady with
      | true => exact doutStep_follows p wr s hph
      | false => exact follows_next stays

/-- Acceptance overwrites every register that a running command reads (R142). -/
theorem acceptHeader_withCtrl {s : State} {c : Ctrl} (hs : s.ctrl.phase = .idle) (hc : c.phase = .idle)
    (h : Header) : acceptHeader h (withCtrl c s) = withIdx c.wrIdx c.doutIdx (acceptHeader h s) := by
  have hphase : c.phase = s.ctrl.phase := hc.trans hs.symm
  simp only [acceptHeader, withCtrl, withIdx, hphase]

/-- States alike have edges alike (R24). -/
theorem clockEdge_follows {p : Params} (pins : Pins p) {s s' : State} (h : Alike s s') :
    Follows (clockEdge p pins s) (clockEdge p pins s') := by
  cases h with
  | running wr dout hwr hdout => exact clockEdge_withIdx pins s wr dout hwr hdout
  | idle c hs hc =>
    cases hrst : pins.rst with
    | true =>
      rw [clockEdge_reset hrst, clockEdge_reset hrst]
      exact follows_next (alike_refl (resetBlock s))
    | false =>
      rw [clockEdge_idle hrst hs, clockEdge_idle (s := withCtrl c s) hrst hc]
      refine follows_elim (.idle s c hs hc) _ fun h => ?_
      rw [idleStep, idleStep, acceptHeader_withCtrl hs hc]
      exact beginCommand_follows p c.wrIdx c.doutIdx (acceptHeader h s) h

/-- The environment drives what the ports say (R221). -/
theorem envPins_congr (p : Params) {s s' : State} (h : s'.ports = s.ports) :
    envPins p s' = envPins p s := by
  rw [envPins, envPins, h]

/-- What an edge takes from the host is seen in live registers (R61). -/
theorem takeOffered_alike {p : Params} (pins : Pins p) {s s' t t' : State} (hs : Alike s s')
    (ht : Alike t t') :
    Alike (takeOffered (transfers p pins s) t) (takeOffered (transfers p pins s') t') := by
  have hready : cmdReady s'.ctrl = cmdReady s.ctrl ∧ dinReady s'.arch s'.ctrl = dinReady s.arch s.ctrl := by
    cases hs with
    | idle c hs hc => simp only [cmdReady, dinReady, withCtrl, hs, hc, and_self]
    | running wr dout => exact ⟨rfl, rfl⟩
  obtain ⟨hcmd, hdin⟩ := hready
  have hcmd' : (transfers p pins s').cmd = (transfers p pins s).cmd := by
    simp only [transfers, outputs, hcmd]
  have hdin' : (transfers p pins s').din = (transfers p pins s).din := by
    simp only [transfers, outputs, hdin]
  have htaken : takeOffered (transfers p pins s') t' = takeOffered (transfers p pins s) t' := by
    rw [takeOffered, takeOffered, hcmd', hdin']
  rw [htaken]
  cases ht with
  | idle c ht hc => exact .idle (takeOffered _ t) c ht hc
  | running wr dout hwr hdout => exact .running (takeOffered _ t) wr dout hwr hdout

theorem cycle_follows (p : Params) {s s' : State} (h : Alike s s') :
    Follows (cycle p s) (cycle p s') := by
  have hedge := clockEdge_follows (envPins p s) h
  unfold cycle
  rw [envPins_congr p h.ports]
  cases hr : clockEdge p (envPins p s) s with
  | next t =>
    obtain ⟨t', hr', ht⟩ := hedge t hr
    rw [hr']
    exact follows_next (takeOffered_alike (envPins p s) h ht)
  | fault f => exact follows_fault f _
  | refused x => exact follows_refused x _

theorem cycles_follows (p : Params) (k : Nat) {s s' : State} (h : Alike s s') :
    Follows (cycles p k s) (cycles p k s') := by
  induction k generalizing s s' with
  | zero => exact follows_next h
  | succ k ih =>
    have hedge := cycle_follows p h
    unfold cycles
    cases hr : cycle p s with
    | next t =>
      obtain ⟨t', hr', ht⟩ := hedge t hr
      rw [hr']
      exact ih ht
    | fault f => exact follows_fault f _
    | refused x => exact follows_refused x _

/-! ## Steps -/

/-- Two idle engines with the same architectural state and ports. -/
theorem alike_of_idle {t t' : State} (harch : t'.arch = t.arch) (hports : t'.ports = t.ports)
    (hidle : t.ctrl.phase = .idle) (hidle' : t'.ctrl.phase = .idle) : Alike t t' := by
  obtain ⟨a, c, q⟩ := t'
  obtain rfl : a = t.arch := harch
  obtain rfl : q = t.ports := hports
  exact .idle t c hidle hidle'

/-- A command taken whole reads no hidden register, and ends idle (R47). -/
theorem step_offered_follows {s : State} {c : Ctrl} (hc : c.phase = .idle) {h : Header}
    (ho : Offered Config.hw h s) : Follows (step s) (step (withCtrl c s)) := by
  obtain ⟨hph, hrest⟩ := id ho
  have ho' : Offered Config.hw h (withCtrl c s) := ⟨hc, hrest⟩
  rw [step, step, stepBy_offered ho, stepBy_offered ho']
  cases hdrWellFormed h with
  | false => exact follows_next (alike_of_idle rfl rfl rfl rfl)
  | true =>
    intro t ht
    rw [if_pos rfl] at ht
    obtain ⟨t', ht', ends⟩ := exec_sameEnd (s := taken (s.ports.dinIn.drop (paylen h)) s)
      (s' := taken (s.ports.dinIn.drop (paylen h)) (withCtrl c s)) rfl ht
    obtain ⟨rsp, dout, preq, hports, hports'⟩ := ends.sent
    exact ⟨t', ht', alike_of_idle (ends.arch_eq rfl ht ht') (hports'.trans hports.symm)
      (exec_answered ht).idle (exec_answered ht').idle⟩

/-- A step of an idle engine reads no hidden register (R24). -/
theorem step_follows {s : State} {c : Ctrl} (hs : s.ctrl.phase = .idle) (hc : c.phase = .idle) :
    Follows (step s) (step (withCtrl c s)) := by
  by_cases ho : ∃ h, Offered Config.hw h s
  · obtain ⟨h, ho⟩ := ho
    exact step_offered_follows hc ho
  · have hedge : step s = cycle Config.hw s := (step_edge_or_offered s).resolve_right ho
    have hedge' : step (withCtrl c s) = cycle Config.hw (withCtrl c s) :=
      (step_edge_or_offered (withCtrl c s)).resolve_right fun ⟨h, _, hrest⟩ => ho ⟨h, hs, hrest⟩
    rw [hedge, hedge']
    exact cycle_follows Config.hw (.idle s c hs hc)

/-- Settles O49: in IDLE every hidden register is dead, and states alike but for dead registers stay so. -/
theorem hiddenRegistersAreDeadInIdle : Obligations.HiddenRegistersAreDeadInIdle := by
  unfold Obligations.HiddenRegistersAreDeadInIdle
  intro s c hs hc
  refine ⟨fun t ht => ?_, fun k t ht => ?_⟩
  · obtain ⟨t', ht', ends⟩ := step_follows hs hc t ht
    exact ⟨t', ht', ends.arch, ends.ports, ends.phase, ends.command⟩
  · obtain ⟨t', ht', ends⟩ := cycles_follows Config.hw k (.idle s c hs hc) t ht
    exact ⟨t', ht', ends.arch, ends.ports, ends.phase⟩

end Sys2Proof.Proofs
end
